-- ==== Sys2Proof/Word.lean ====
section
/-! DEFINITION. The widths of the NTK timescale core: port words and 64-bit timescale patterns. -/

namespace Sys2Proof

/-- A port register, a command word or one limb of a 64-bit value (20_memory.md R90, R97). -/
abbrev Word := BitVec 32

/-- A 64-bit pattern: a timescale value (40_fixedpoint.md R150) or a 64-bit integer register. -/
abbrev Fx := BitVec 64

/-- Nanoseconds in a second: NANOSECOND of 00_scope.md R15. -/
abbrev nanosecond : Int := 1000000000

/-- The bound on an offset in nanoseconds: MAXPHASE of 00_scope.md R11. -/
abbrev maxPhase : Int := 500000000

/-- The bound on a frequency in ns/s: MAXFREQ of 00_scope.md R11. -/
abbrev maxFreq : Int := 500000

/-- The integral weight of a timescale value: the binary point stands above bit 31 (R150). -/
abbrev fxOne : Int := 4294967296

end Sys2Proof
end

