-- ==== Sys2Proof/Config.lean ====
section
/-! DEFINITION. The implementation parameters of the core, their constraints and defaults (00_scope.md R12, R13),
and the free values of the model. -/

namespace Sys2Proof

/-- The parameters of 00_scope.md R12 and R13, fixed when the core is built (70_reset_and_hazards.md R436).
The spec gives no value of the first four; a state carries its own choice (log 1). -/
structure Params where
  /-- NCPU, the number of processors. -/
  ncpu : Nat
  /-- CW, the width in bits of every cycle counter. -/
  cw : Nat
  /-- HZ, hardware ticks per second. -/
  hz : Nat
  /-- CPU_HZ, the nominal rated frequency of the cycle counters. -/
  cpuHz : Nat
  /-- PLL_GAIN, a shift count. -/
  pllGain : Nat
  /-- FLL_GAIN, a shift count. -/
  fllGain : Nat
  /-- MINSEC, the minimum elapsed seconds for the FLL term. -/
  minsec : Nat
  /-- MAXSEC, the elapsed seconds above which the FLL term is added unasked. -/
  maxsec : Nat
  /-- MAXTC, the largest time constant. -/
  maxtc : Nat
  /-- PPS_SHIFTMAX_RESET. -/
  ppsShiftmaxReset : Nat
  /-- PPS_VALID_INIT, seconds. -/
  ppsValidInit : Nat
  /-- POPCORN, the threshold shift of popcorn rejection. -/
  popcorn : Nat
  /-- PPS_AVG, the shift of the decays. -/
  ppsAvg : Nat
  /-- MAXWANDER, ns/s. -/
  maxwander : Nat
  /-- SCALE_PPM. -/
  scalePpm : Nat
  /-- TOL_US, microseconds added to MAXERROR each second. -/
  tolUs : Nat
  /-- ERR_RESET, microseconds. -/
  errReset : Nat
  deriving DecidableEq, Repr

namespace Params

/-- The constraints the spec puts on the parameters (00_scope.md R12, R13, R14). -/
abbrev Wf (c : Params) : Prop :=
  1 ≤ c.ncpu ∧ 1 ≤ c.cw ∧ c.cw ≤ 64 ∧ 1 ≤ c.hz ∧ c.hz ≤ 1000000000 ∧
  1 ≤ c.cpuHz ∧ c.cpuHz < 18446744073709551616 ∧
  2 * (c.pllGain + c.maxtc) ≤ 63 ∧ c.fllGain + 4 ≤ 63 ∧
  4 ≤ c.minsec ∧ c.minsec ≤ 64 ∧ c.minsec ≤ c.maxsec ∧
  2 ≤ c.ppsShiftmaxReset ∧ c.ppsShiftmaxReset ≤ 15 ∧
  1 ≤ c.ppsValidInit ∧ c.ppsValidInit < 4294967296 ∧
  c.popcorn ≤ 8 ∧ c.ppsAvg ≤ 31 ∧
  1 ≤ c.maxwander ∧ c.maxwander ≤ 500000 ∧ 1 ≤ c.scalePpm ∧ c.errReset < 4294967296

/-- TICK_NS = floor(1 000 000 000 / HZ) (00_scope.md R12). -/
def tickNs (c : Params) : Nat := 1000000000 / c.hz

/-- The parameter choice of `State.reset`: the defaults of 00_scope.md R13 and, for the four open parameters of
R12, the conventions of 95_test_vectors.md. DESIGN CHOICE (log 1), unsafe: no statement rests on it. -/
def reference : Params where
  ncpu := 2
  cw := 32
  hz := 100
  cpuHz := 100000000
  pllGain := 4
  fllGain := 2
  minsec := 16
  maxsec := 1200
  maxtc := 10
  ppsShiftmaxReset := 8
  ppsValidInit := 120
  popcorn := 2
  ppsAvg := 2
  maxwander := 100000
  scalePpm := 65
  tolUs := 500
  errReset := 500000

end Params

namespace Config

/-- FREE VALUE (log 9, DESIGN CHOICE, safe). What PPS_FCOUNT holds after a sum outside 64 signed bits: no rule
states it (44_pps.md R311 says only that no realistic run reaches it). The argument is the draw number. -/
opaque fcountOutOfRange : Nat → BitVec 64

/-- FREE VALUE (log 9, DESIGN CHOICE, safe). What PPS_JITTER holds after an average outside 32 signed bits. -/
opaque jitterOutOfRange : Nat → BitVec 32

/-- FREE VALUE (log 9, DESIGN CHOICE, safe). What PPS_STABIL holds after an average outside 32 signed bits
(possible only where MAXWANDER * SCALE_PPM reaches 2^31). -/
opaque stabilOutOfRange : Nat → BitVec 32

/-- FREE VALUE (log 10, DESIGN CHOICE, safe). FxRsh(a, n) for n >= 64: "The function is not defined for n >= 64"
(40_fixedpoint.md R157). -/
opaque shiftBeyond63 : BitVec 64 → Nat → BitVec 64

end Config

end Sys2Proof
end

