-- ==== Sys2Proof/Machine/State.lean ====
section
/-! DEFINITION. The architectural state of the core (10_state.md), what drives it from outside, its reset, and the
reasons a step can stop. -/

namespace Sys2Proof.Machine

/-- The clock state, one instance shared by all processors (10_state.md R40 to R51). -/
structure Clock where
  /-- SEC, signed (R40). -/
  sec : BitVec 64
  /-- NSEC, signed (R40). -/
  nsec : BitVec 32
  /-- STATUS (R41). -/
  status : BitVec 16
  /-- STATE: OK 0, INS 1, DEL 2, OOP 3, WAIT 4 (R43). -/
  state : BitVec 3
  /-- OFFSET, the residual phase, ns (R44). -/
  offset : Fx
  /-- FREQ, the residual frequency, ns/s (R45). -/
  freq : Fx
  /-- ADJ, the next-tick adjustment, ns/s (R46). -/
  adj : Fx
  /-- PHASE, the fractional-phase accumulator (R47). -/
  phase : Fx
  /-- TC, the time constant, in [0, MAXTC] (R48). -/
  tc : Nat
  /-- MAXERROR, microseconds, unsigned (R49). -/
  maxerror : BitVec 32
  /-- ESTERROR, microseconds, unsigned (R49). -/
  esterror : BitVec 32
  /-- REFTIME, signed seconds (R50). -/
  reftime : BitVec 64
  /-- TAI, signed seconds (R51). -/
  tai : BitVec 32
  deriving DecidableEq, Repr

/-- The PPS filter state, one instance (10_state.md R55 to R66). -/
structure Pps where
  /-- PPS_INIT (R56). -/
  init : Bool
  /-- PPS_TFN[0], the newest recorded fraction, signed ns (R57). -/
  tfn0 : BitVec 32
  /-- PPS_TFN[1] (R57). -/
  tfn1 : BitVec 32
  /-- PPS_TFN[2] (R57). -/
  tfn2 : BitVec 32
  /-- PPS_TFSEC, signed (R57). -/
  tfsec : BitVec 64
  /-- PPS_FREQ, ns/s (R58). -/
  freq : Fx
  /-- PPS_SHIFT, in [2, 15] (R59). -/
  shift : Nat
  /-- PPS_SHIFTMAX, in [2, 15] (R59). -/
  shiftmax : Nat
  /-- PPS_JITTER, signed ns (R60). -/
  jitter : BitVec 32
  /-- PPS_STABIL, signed (R60). -/
  stabil : BitVec 32
  /-- PPS_JITCNT (R61). -/
  jitcnt : BitVec 32
  /-- PPS_CALCNT (R61). -/
  calcnt : BitVec 32
  /-- PPS_ERRCNT (R61). -/
  errcnt : BitVec 32
  /-- PPS_STBCNT (R61). -/
  stbcnt : BitVec 32
  /-- PPS_VALID, seconds, unsigned (R62). -/
  valid : BitVec 32
  /-- PPS_LASTCOUNT, signed ns (R63). -/
  lastcount : BitVec 32
  /-- PPS_FCOUNT, signed ns (R64). -/
  fcount : BitVec 64
  /-- PPS_LASTSEC, signed (R65). -/
  lastsec : BitVec 64
  /-- PPS_INTCNT, in [-4, 4] (R66). -/
  intcnt : Int
  deriving DecidableEq, Repr

/-- The private interpolation state of one processor (10_state.md R70 to R73). -/
structure Interp where
  /-- SCNT[p], CW bits (R71; held in 64 bits, log 6). -/
  scnt : BitVec 64
  /-- STSEC[p], signed (R71). -/
  stsec : BitVec 64
  /-- STNSEC[p], signed (R71). -/
  stnsec : BitVec 32
  /-- NUM[p], signed (R72). -/
  num : BitVec 64
  /-- DEN[p], unsigned (R72). -/
  den : BitVec 64
  /-- INITD[p] (R73). -/
  initd : Bool
  deriving DecidableEq, Repr

/-- The request block of ADJT (10_state.md R82). -/
structure Req where
  /-- REQ_MODES. -/
  modes : Word
  /-- REQ_OFFSET_LO. -/
  offsetLo : Word
  /-- REQ_OFFSET_HI. -/
  offsetHi : Word
  /-- REQ_FREQ_LO. -/
  freqLo : Word
  /-- REQ_FREQ_HI. -/
  freqHi : Word
  /-- REQ_MAXERROR. -/
  maxerror : Word
  /-- REQ_ESTERROR. -/
  esterror : Word
  /-- REQ_STATUS. -/
  status : Word
  /-- REQ_CONSTANT. -/
  constant : Word
  /-- REQ_SHIFT. -/
  shift : Word
  deriving DecidableEq, Repr

/-- The response block (10_state.md R83, 41_control.md R205). A 64-bit field is read as two words, `_LO` and
`_HI` (20_memory.md R97). -/
structure Rsp where
  /-- RSP_OFFSET. -/
  offset : BitVec 64
  /-- RSP_FREQ. -/
  freq : BitVec 64
  /-- RSP_MAXERROR. -/
  maxerror : Word
  /-- RSP_ESTERROR. -/
  esterror : Word
  /-- RSP_STATUS. -/
  status : Word
  /-- RSP_CONSTANT. -/
  constant : Word
  /-- RSP_TAI. -/
  tai : Word
  /-- RSP_STATE. -/
  state : Word
  /-- RSP_SEC. -/
  sec : BitVec 64
  /-- RSP_NSEC. -/
  nsec : Word
  /-- RSP_SHIFT. -/
  shift : Word
  /-- RSP_SHIFTMAX. -/
  shiftmax : Word
  /-- RSP_VALID. -/
  valid : Word
  /-- RSP_PPSFREQ. -/
  ppsfreq : BitVec 64
  /-- RSP_JITTER. -/
  jitter : Word
  /-- RSP_STABIL. -/
  stabil : Word
  /-- RSP_JITCNT. -/
  jitcnt : Word
  /-- RSP_CALCNT. -/
  calcnt : Word
  /-- RSP_ERRCNT. -/
  errcnt : Word
  /-- RSP_STBCNT. -/
  stbcnt : Word
  /-- RSP_REFTIME. -/
  reftime : BitVec 64
  /-- RSP_RAWOFFSET. -/
  rawoffset : BitVec 64
  /-- RSP_RAWFREQ. -/
  rawfreq : BitVec 64
  /-- RSP_RAWADJ. -/
  rawadj : BitVec 64
  /-- RSP_RAWPHASE. -/
  rawphase : BitVec 64
  /-- RSP_RAWPPSFREQ. -/
  rawppsfreq : BitVec 64
  deriving DecidableEq, Repr

/-- The port registers of one bank (10_state.md R80 to R84). CMD has no storage (20_memory.md R93). -/
structure Port where
  /-- STAT (R84). -/
  stat : Word
  /-- ARG0 (R80). -/
  arg0 : Word
  /-- ARG1. -/
  arg1 : Word
  /-- ARG2. -/
  arg2 : Word
  /-- ARG3. -/
  arg3 : Word
  /-- RES0 (R81). -/
  res0 : Word
  /-- RES1. -/
  res1 : Word
  /-- RES2. -/
  res2 : Word
  /-- RES3, written by no command. -/
  res3 : Word
  /-- The REQ block. -/
  req : Req
  /-- The RSP block. -/
  rsp : Rsp
  deriving DecidableEq, Repr

/-- All that is private to one processor (60_exceptions.md R406). -/
structure Cpu where
  /-- The bank. -/
  port : Port
  /-- The interpolation state. -/
  interp : Interp
  deriving DecidableEq, Repr

/-- What an access does: the two moves of a processor (00_scope.md R17). -/
inductive AccessKind where
  /-- `PortRead`. -/
  | read
  /-- `PortWrite` of a value. -/
  | write (v : Word)
  deriving DecidableEq, Repr

/-- The shape of an access on the platform's bus: the port admits only the first (20_memory.md R98). -/
inductive AccessShape where
  /-- One whole aligned 32-bit word. -/
  | word
  /-- A byte access. -/
  | byte
  /-- A halfword access. -/
  | halfword
  /-- A 64-bit burst. -/
  | burst64
  /-- An access at a byte address that is not a multiple of 4. -/
  | misaligned
  deriving DecidableEq, Repr

/-- One access of the port, still to be performed. CYC and PRIV are the inputs of 00_scope.md R16 as the core
would sample them at this access; only a command reads them (log 3). -/
structure Access where
  /-- The word index in the port space (20_memory.md R90, R91). -/
  addr : Nat
  /-- Read or write. -/
  kind : AccessKind
  /-- The shape on the bus. -/
  shape : AccessShape
  /-- The present cycle count of the processor, of which the core sees CW bits (45_interpolator.md R350). -/
  cyc : BitVec 64
  /-- The privilege answer, true = the caller has privilege. -/
  priv : Bool
  deriving DecidableEq, Repr

/-- The value one read returned: the program's observation (30_encoding.md R131; log 5). -/
structure Observation where
  /-- The word index read. -/
  addr : Nat
  /-- What the read returned. -/
  value : Word
  deriving DecidableEq, Repr

/-- The bank and the inputs of the command being executed (00_scope.md R16, 20_memory.md R91; log 3). -/
structure Issue where
  /-- The issuing bank p. -/
  bank : Nat
  /-- The cycle count presented with the CMD write. -/
  cyc : BitVec 64
  /-- PRIV[p] at the CMD write. -/
  priv : Bool
  deriving DecidableEq, Repr

/-- The whole machine. `cfg` is the parameter choice, which no step changes; `issue`, `pending`, `reads` and `draws`
are the model's own fields; everything else is the spec's state (10_state.md R30, R86). -/
structure State where
  /-- The parameters (00_scope.md R12, R13; log 1). -/
  cfg : Params
  /-- T0 to T7 (10_state.md R31). -/
  t : Vector Fx 8
  /-- The clock state. -/
  clock : Clock
  /-- The PPS filter state. -/
  pps : Pps
  /-- MCNT, CW bits (R74; held in 64 bits, log 6). -/
  mcnt : BitVec 64
  /-- LAST_SEC, signed (R75). -/
  lastSec : BitVec 64
  /-- LAST_NSEC, in [0, 999 999 999] (R75). -/
  lastNsec : BitVec 32
  /-- The NCPU processors, processor p at index p. -/
  cpus : List Cpu
  /-- MODEL'S OWN (log 3): the command being executed. -/
  issue : Issue
  /-- MODEL'S OWN (log 2): the accesses still to be performed, next first. -/
  pending : List Access
  /-- MODEL'S OWN (log 5): what the reads returned, newest first. -/
  reads : List Observation
  /-- MODEL'S OWN (log 9): the number of free values drawn. -/
  draws : Nat
  deriving DecidableEq, Repr

/-- Why a step faults. -/
inductive Fault where
  /-- An access at a word index that lies in no bank (20_memory.md R90, R91; log 4). Raised by the port, never by a
  command. Safe: the machine stops where the spec has no address. -/
  | outsidePortSpace (addr : Nat)
  deriving DecidableEq, Repr

/-- Why a step is refused. -/
inductive Refusal where
  /-- An instruction with no meaning in the model. No arm of `exec` raises it. Safe. -/
  | notModelled (mnemonic : String)
  /-- An access that is not one whole aligned 32-bit word: "A model must refuse it" (20_memory.md R98). Raised by
  the port. Safe. -/
  | notOneAlignedWord
  deriving DecidableEq, Repr

/-- The clock state after reset (70_reset_and_hazards.md R431). -/
def Clock.reset (c : Params) : Clock where
  sec := 0#64
  nsec := 0#32
  status := 0x0040#16
  state := 0#3
  offset := 0#64
  freq := 0#64
  adj := 0x3B9ACA0000000000#64
  phase := 0#64
  tc := 0
  maxerror := BitVec.ofNat 32 c.errReset
  esterror := BitVec.ofNat 32 c.errReset
  reftime := 0#64
  tai := 0#32

/-- The PPS filter state after reset (70_reset_and_hazards.md R431). -/
def Pps.reset (c : Params) : Pps where
  init := false
  tfn0 := 0#32
  tfn1 := 0#32
  tfn2 := 0#32
  tfsec := 0#64
  freq := 0#64
  shift := 2
  shiftmax := c.ppsShiftmaxReset
  jitter := 0#32
  stabil := 0#32
  jitcnt := 0#32
  calcnt := 0#32
  errcnt := 0#32
  stbcnt := 0#32
  valid := 0#32
  lastcount := 0#32
  fcount := 0#64
  lastsec := 0#64
  intcnt := 0

/-- The interpolation state of a processor after reset (70_reset_and_hazards.md R431). -/
def Interp.reset : Interp where
  scnt := 0#64
  stsec := 0#64
  stnsec := 0#32
  num := 0#64
  den := 0#64
  initd := false

/-- The request block after reset: every word 0. -/
def Req.reset : Req where
  modes := 0#32
  offsetLo := 0#32
  offsetHi := 0#32
  freqLo := 0#32
  freqHi := 0#32
  maxerror := 0#32
  esterror := 0#32
  status := 0#32
  constant := 0#32
  shift := 0#32

/-- The response block after reset: every word 0. -/
def Rsp.reset : Rsp where
  offset := 0#64
  freq := 0#64
  maxerror := 0#32
  esterror := 0#32
  status := 0#32
  constant := 0#32
  tai := 0#32
  state := 0#32
  sec := 0#64
  nsec := 0#32
  shift := 0#32
  shiftmax := 0#32
  valid := 0#32
  ppsfreq := 0#64
  jitter := 0#32
  stabil := 0#32
  jitcnt := 0#32
  calcnt := 0#32
  errcnt := 0#32
  stbcnt := 0#32
  reftime := 0#64
  rawoffset := 0#64
  rawfreq := 0#64
  rawadj := 0#64
  rawphase := 0#64
  rawppsfreq := 0#64

/-- A bank after reset: STAT = 5 (CLASS = ERROR), every other register 0. -/
def Port.reset : Port where
  stat := 0x00000005#32
  arg0 := 0#32
  arg1 := 0#32
  arg2 := 0#32
  arg3 := 0#32
  res0 := 0#32
  res1 := 0#32
  res2 := 0#32
  res3 := 0#32
  req := Req.reset
  rsp := Rsp.reset

/-- A processor after reset. -/
def Cpu.reset : Cpu where
  port := Port.reset
  interp := Interp.reset

/-- The reset state for a parameter choice: "the model has one initial state per parameter choice"
(70_reset_and_hazards.md R431). Nothing is pending: a program comes from outside (log 2). -/
def State.resetWith (c : Params) : State where
  cfg := c
  t := Vector.replicate 8 0#64
  clock := Clock.reset c
  pps := Pps.reset c
  mcnt := 0#64
  lastSec := 0#64
  lastNsec := 0#32
  cpus := List.replicate c.ncpu Cpu.reset
  issue := ⟨0, 0#64, false⟩
  pending := []
  reads := []
  draws := 0

/-- The machine right after reset, at the reference parameter choice (log 1). -/
def State.reset : State := State.resetWith Params.reference

end Sys2Proof.Machine
end

