-- ==== Sys2Proof/Machine/Flags.lean ====
section
/-! DEFINITION. The bits of STATUS, of REQ_MODES and of STAT, and the classification (10_state.md R41, R84;
41_control.md R191, R210; 30_encoding.md R129). -/

namespace Sys2Proof.Machine

/-- The bits of STATUS by name (10_state.md R41). -/
inductive StatusBit where
  | pll | ppsfreq | ppstime | fll | ins | del | unsync | freqhold
  | ppssignal | ppsjitter | ppswander | ppserror | clockerr | nano | mode | clk
  deriving DecidableEq, Repr

/-- The position of a STATUS bit (10_state.md R41). -/
def statusPos : StatusBit → Nat
  | .pll => 0
  | .ppsfreq => 1
  | .ppstime => 2
  | .fll => 3
  | .ins => 4
  | .del => 5
  | .unsync => 6
  | .freqhold => 7
  | .ppssignal => 8
  | .ppsjitter => 9
  | .ppswander => 10
  | .ppserror => 11
  | .clockerr => 12
  | .nano => 13
  | .mode => 14
  | .clk => 15

/-- STATUS.X (00_scope.md R22). -/
def statusHas (w : BitVec 16) (b : StatusBit) : Bool := w.getLsbD (statusPos b)

/-- STATUS.X <- v: writes one bit and leaves the others (00_scope.md R22). -/
def statusPut (w : BitVec 16) (b : StatusBit) (v : Bool) : BitVec 16 :=
  if v then w ||| (1#16 <<< statusPos b) else w &&& ~~~(1#16 <<< statusPos b)

/-- STATUS.X of a clock state. -/
def Clock.has (k : Clock) (b : StatusBit) : Bool := statusHas k.status b

/-- STATUS.X <- v in a clock state. -/
def Clock.put (k : Clock) (b : StatusBit) (v : Bool) : Clock := { k with status := statusPut k.status b v }

/-- The bits of REQ_MODES by name (41_control.md R191); bits 8 to 11 select nothing. -/
inductive ModeBit where
  | offset | frequency | maxerror | esterror | status | timeconst | ppsmax | tai | micro | nano | clkb | clka
  deriving DecidableEq, Repr

/-- The position of a mode bit (41_control.md R191). -/
def modePos : ModeBit → Nat
  | .offset => 0
  | .frequency => 1
  | .maxerror => 2
  | .esterror => 3
  | .status => 4
  | .timeconst => 5
  | .ppsmax => 6
  | .tai => 7
  | .micro => 12
  | .nano => 13
  | .clkb => 14
  | .clka => 15

/-- modes = REQ_MODES[15:0]: only bits 15:0 are read (41_control.md R191). -/
def modesOf (r : Req) : BitVec 16 := r.modes.setWidth 16

/-- modes.X of a request. -/
def modeHas (r : Req) (b : ModeBit) : Bool := (modesOf r).getLsbD (modePos b)

/-- The classification ERROR (10_state.md R43, R84). -/
def classError : BitVec 3 := 5#3

/-- `SyncClass()` (41_control.md R210). -/
def syncClass (k : Clock) : BitVec 3 :=
  if k.has .unsync || k.has .clockerr then classError
  else if (k.has .ppsfreq || k.has .ppstime) && !k.has .ppssignal then classError
  else if k.has .ppstime && k.has .ppsjitter then classError
  else if k.has .ppsfreq && (k.has .ppswander || k.has .ppserror) then classError
  else k.state

/-- SECP: NSEC >= 1 000 000 000, signed: a SECOVF is due (10_state.md R84, 30_encoding.md R129). -/
def secPending (k : Clock) : Bool := decide (nanosecond ≤ k.nsec.toInt)

/-- The three outcome bits of STAT that the command itself decides (30_encoding.md R129). -/
structure CmdFlags where
  /-- MONO: the command was NOW and it returned previous + 1 ns. -/
  mono : Bool
  /-- ILLEGAL: the word is no command. -/
  illegal : Bool
  /-- DENIED: the command did raise Denied. -/
  denied : Bool
  deriving DecidableEq, Repr

/-- A command that completes with none of the three. -/
def flagsNone : CmdFlags := ⟨false, false, false⟩

/-- The STAT word of 30_encoding.md R129 on the state the command left: bits 31:8 zero, SECP 7, MONO 6, ILLEGAL 5,
DENIED 4, bit 3 zero, CLASS 2:0. -/
def statWord (k : Clock) (f : CmdFlags) : Word :=
  0#24 ++ BitVec.ofBool (secPending k) ++ BitVec.ofBool f.mono ++ BitVec.ofBool f.illegal ++
    BitVec.ofBool f.denied ++ 0#1 ++ syncClass k

end Sys2Proof.Machine
end

