-- ==== Sys2Proof/Machine/Operands.lean ====
section
/-! DEFINITION. Width functions, limbs and the operand forms of the commands (00_scope.md R19, R21;
30_encoding.md R123, R124). -/

namespace Sys2Proof.Machine

/-- HI(v) = v[63:32] (00_scope.md R21). -/
def hiWord (v : BitVec 64) : Word := v.extractLsb' 32 32

/-- LO(v) = v[31:0] (00_scope.md R21). -/
def loWord (v : BitVec 64) : Word := v.extractLsb' 0 32

/-- pair(h, l) (00_scope.md R21). -/
def pairWord (h l : Word) : BitVec 64 := h ++ l

/-- clamp(x, lo, hi) (00_scope.md R19). -/
def clampInt (x lo hi : Int) : Int := if x < lo then lo else if hi < x then hi else x

/-- wrap64(z) (00_scope.md R19). -/
def wrap64 (z : Int) : BitVec 64 := BitVec.ofInt 64 z

/-- The 32 low bits of z: the pattern of both u32(z) and s32(z) (00_scope.md R19). -/
def wrap32 (z : Int) : BitVec 32 := BitVec.ofInt 32 z

/-- A register that the spec makes signed 32 bits takes the integer z; where z does not fit, no rule states the
result and it is the free value (log 9). -/
def fitS32 (z : Int) (free : BitVec 32) : BitVec 32 :=
  if -2147483648 ≤ z ∧ z ≤ 2147483647 then wrap32 z else free

/-- As `fitS32`, for a signed 64-bit register. -/
def fitS64 (z : Int) (free : BitVec 64) : BitVec 64 :=
  if -9223372036854775808 ≤ z ∧ z ≤ 9223372036854775807 then wrap64 z else free

/-- S64(pair(ARG1, ARG0)): the seconds of SETT and HPPS, the sample of HUPD (30_encoding.md R124). -/
def Port.argPair (q : Port) : BitVec 64 := pairWord q.arg1 q.arg0

/-- pair(REQ_OFFSET_HI, REQ_OFFSET_LO) (41_control.md R201). -/
def Req.offsetPair (r : Req) : BitVec 64 := pairWord r.offsetHi r.offsetLo

/-- pair(REQ_FREQ_HI, REQ_FREQ_LO) (41_control.md R202). -/
def Req.freqPair (r : Req) : BitVec 64 := pairWord r.freqHi r.freqLo

/-- The CW bits of the cycle counter that the core sees (45_interpolator.md R350; log 6). -/
def sampleCyc (c : Params) (x : BitVec 64) : BitVec 64 := BitVec.ofNat 64 (x.toNat % 2 ^ c.cw)

/-- The difference of two counts modulo 2^CW (45_interpolator.md R354, R358). -/
def cycDelta (c : Params) (later earlier : BitVec 64) : Int := ((later.toNat : Int) - earlier.toNat) % (2 ^ c.cw : Nat)

end Sys2Proof.Machine
end

