-- ==== Sys2Proof/Machine/Fixed.lean ====
section
/-! DEFINITION. The pure functions of the fixed-point unit (40_fixedpoint.md part 2) and their limb form (part 3). -/

namespace Sys2Proof.Machine

/-- `FxAdd` (40_fixedpoint.md R154). -/
def fxAdd (a b : Fx) : Fx := a + b

/-- `FxSub` (R155). -/
def fxSub (a b : Fx) : Fx := a - b

/-- `FxNeg` (R156). -/
def fxNeg (a : Fx) : Fx := -a

/-- `FxRsh` (R157): arithmetic right shift for n <= 63; "The function is not defined for n >= 64" (log 10). -/
def fxRsh (a : Fx) (n : Nat) : Fx := if n < 64 then a.sshiftRight n else Config.shiftBeyond63 a n

/-- `FxMul` (R158): the low 64 bits of the exact product of S64(a) and an unsigned scalar. -/
def fxMul (a : Fx) (k : Nat) : Fx := wrap64 (a.toInt * k)

/-- `FxLoadInt` (R159): HI = u32(i), LO = 0. -/
def fxLoadInt (i : Int) : Fx := pairWord (wrap32 i) 0#32

/-- `FxGetInt` (R160): sext_32 of a[63:32]. -/
def fxGetInt (a : Fx) : Int := (hiWord a).toInt

/-- `FxClr` (R161). -/
def fxClr : Fx := 0#64

/-- `FxLt` (R161): the signed comparison. -/
def fxLt (a b : Fx) : Bool := decide (a.toInt < b.toInt)

/-- `FxClampMag` (R161): the pattern of clamp(S64(a), -m * 2^32, m * 2^32). -/
def fxClampMag (a : Fx) (m : Int) : Fx := wrap64 (clampInt a.toInt (-m * fxOne) (m * fxOne))

/-- A value in the split backend: two 32-bit limbs (R152, R162). -/
structure Limbs where
  /-- Integral part with the sign. -/
  hi : Word
  /-- Unsigned fraction. -/
  lo : Word
  deriving DecidableEq, Repr

/-- The limbs of a pattern. -/
def toLimbs (v : Fx) : Limbs := ⟨hiWord v, loWord v⟩

/-- The pattern of two limbs. -/
def ofLimbs (x : Limbs) : Fx := pairWord x.hi x.lo

/-- Add in the split backend: `c` is the carry out of the fraction limb (R162). -/
def limbAdd (x y : Limbs) : Limbs :=
  let sum := x.lo.toNat + y.lo.toNat
  let c := sum / 4294967296
  ⟨BitVec.ofNat 32 (x.hi.toNat + y.hi.toNat + c), BitVec.ofNat 32 sum⟩

/-- Sub in the split backend: `c` is the borrow (R162). -/
def limbSub (x y : Limbs) : Limbs :=
  let c : Int := if x.lo.toNat < y.lo.toNat then 1 else 0
  ⟨wrap32 ((x.hi.toNat : Int) - y.hi.toNat - c), wrap32 ((x.lo.toNat : Int) - y.lo.toNat)⟩

/-- Neg in the split backend (R162). -/
def limbNeg (x : Limbs) : Limbs :=
  let c : Int := if x.lo ≠ 0#32 then 1 else 0
  ⟨wrap32 (0 - (x.hi.toNat : Int) - c), wrap32 (0 - (x.lo.toNat : Int))⟩

/-- The sign limb: 0xFFFFFFFF or 0 by h[31] (R162). -/
def signLimb (h : Word) : Word := if h.msb then 0xFFFFFFFF#32 else 0#32

/-- Rsh in the split backend, for n <= 63 (R162). -/
def limbRsh (x : Limbs) (n : Nat) : Limbs :=
  if n = 0 then x
  else if n ≤ 31 then ⟨wrap32 (x.hi.toInt / 2 ^ n), (x.lo >>> n) ||| (x.hi <<< (32 - n))⟩
  else if n = 32 then ⟨signLimb x.hi, x.hi⟩
  else ⟨signLimb x.hi, wrap32 (x.hi.toInt / 2 ^ (n - 32))⟩

/-- Mul by k < 2^32 in the split backend, with exact partial products (R162). -/
def limbMul (x : Limbs) (k : Nat) : Limbs :=
  let pl := x.lo.toNat * k
  let ph := x.hi.toNat * k
  ⟨BitVec.ofNat 32 (ph + pl / 4294967296), BitVec.ofNat 32 pl⟩

/-- Mul by any k < 2^64 in the split backend: k is split the same way and the partial products are summed modulo
2^64 (R162). -/
def limbMulWide (x : Limbs) (k : Nat) : Limbs :=
  let low := limbMul x (k % 4294967296)
  let high := x.lo.toNat * (k / 4294967296)
  ⟨BitVec.ofNat 32 (low.hi.toNat + high), low.lo⟩

/-- LoadInt in the split backend (R162). -/
def limbLoadInt (i : Int) : Limbs := ⟨wrap32 i, 0#32⟩

/-- GetInt in the split backend (R162). -/
def limbGetInt (x : Limbs) : Int := x.hi.toInt

/-- Clr in the split backend (R162). -/
def limbClr : Limbs := ⟨0#32, 0#32⟩

end Sys2Proof.Machine
end

