-- ==== Sys2Proof/Syntax.lean ====
section
/-! DEFINITION. The commands of the core: one constructor per row of spec/opcode_table.json (30_encoding.md R125). -/

namespace Sys2Proof

/-- A command (30_encoding.md R120, R125). A register operand is its 4-bit field RD or RS, of which 0 to 7 are
legal (R121); `sh` is the 6-bit field SH. Every other operand is in the bank (R123). -/
inductive Instr where
  /-- FXADD Td, Ts: 0x01. -/
  | fxadd (rd rs : BitVec 4)
  /-- FXSUB Td, Ts: 0x02. -/
  | fxsub (rd rs : BitVec 4)
  /-- FXNEG Td: 0x03. -/
  | fxneg (rd : BitVec 4)
  /-- FXRSH Td, n: 0x04. -/
  | fxrsh (rd : BitVec 4) (sh : BitVec 6)
  /-- FXMUL Td: 0x05. -/
  | fxmul (rd : BitVec 4)
  /-- FXLINT Td: 0x06. -/
  | fxlint (rd : BitVec 4)
  /-- FXGINT Ts: 0x07. -/
  | fxgint (rs : BitVec 4)
  /-- FXCLR Td: 0x08. -/
  | fxclr (rd : BitVec 4)
  /-- FXLD Td: 0x09. -/
  | fxld (rd : BitVec 4)
  /-- FXST Ts: 0x0A. -/
  | fxst (rs : BitVec 4)
  /-- ADJT, the source's AdjustTime: 0x10. -/
  | adjt
  /-- GETT, the source's GetTime: 0x11. -/
  | gett
  /-- TICK, the source's TickAdjust: 0x20. -/
  | tick
  /-- SECOVF, the source's SecondOverflow: 0x21. -/
  | secovf
  /-- SETT, the administrative clock-set: 0x22. -/
  | sett
  /-- HUPD, the source's hardupdate: 0x30. -/
  | hupd
  /-- HPPS, the source's hardpps: 0x40. -/
  | hpps
  /-- CALIB, the source's Calibrate: 0x50. -/
  | calib
  /-- NOW, the source's Now: 0x51. -/
  | now
  deriving DecidableEq, Repr

end Sys2Proof
end

