-- ==== Sys2Proof/WellFormed.lean ====
section
/-! DEFINITION. Which commands are legal: register numbers 0 to 7 (30_encoding.md R121, R127). -/

namespace Sys2Proof

/-- A register field names one of T0 to T7 (30_encoding.md R121: legal values 0 to 7). -/
abbrev regLegal (r : BitVec 4) : Bool := decide (r.toNat < 8)

/-- A command whose encoding is a legal word (30_encoding.md R127). SH has no illegal value (R123). -/
def Instr.WellFormed : Instr → Bool
  | .fxadd rd rs => regLegal rd && regLegal rs
  | .fxsub rd rs => regLegal rd && regLegal rs
  | .fxneg rd => regLegal rd
  | .fxrsh rd _ => regLegal rd
  | .fxmul rd => regLegal rd
  | .fxlint rd => regLegal rd
  | .fxgint rs => regLegal rs
  | .fxclr rd => regLegal rd
  | .fxld rd => regLegal rd
  | .fxst rs => regLegal rs
  | .adjt => true
  | .gett => true
  | .tick => true
  | .secovf => true
  | .sett => true
  | .hupd => true
  | .hpps => true
  | .calib => true
  | .now => true

end Sys2Proof
end

