-- ==== Sys2Proof/Machine/Ops.lean ====
section
/-! DEFINITION. The named operations over registers: the timescale register file, the bank of the issuing
processor, the STAT write that ends every command, and what stands for taking an exception on a core that never
traps (00_scope.md R20, 30_encoding.md R128, R129, 60_exceptions.md R392, R399). -/

namespace Sys2Proof.Machine

/-- `T[i]` (00_scope.md R20). A register field of 8 to 15 names no register; no command reads one (R127). -/
def State.readT (s : State) (r : BitVec 4) : Fx := (s.t[r.toNat]?).getD 0#64

/-- `T[i] <- v` (00_scope.md R20). -/
def State.writeT (s : State) (r : BitVec 4) (v : Fx) : State := { s with t := s.t.setIfInBounds r.toNat v }

/-- Processor p, or a reset one where there is none (no access reaches it: the port faults first). -/
def State.cpu (s : State) (p : Nat) : Cpu := (s.cpus[p]?).getD Cpu.reset

/-- The processor whose bank issued the present command. -/
def State.self (s : State) : Cpu := s.cpu s.issue.bank

/-- The port registers of the issuing bank. -/
def State.port (s : State) : Port := s.self.port

/-- Change processor p and leave every other (20_memory.md R91). -/
def State.modifyCpu (s : State) (p : Nat) (f : Cpu → Cpu) : State := { s with cpus := s.cpus.modify p f }

/-- Change the port registers of the issuing bank. -/
def State.modifyPort (s : State) (f : Port → Port) : State :=
  s.modifyCpu s.issue.bank fun u => { u with port := f u.port }

/-- Change the interpolation state of the issuing processor. -/
def State.modifyInterp (s : State) (f : Interp → Interp) : State :=
  s.modifyCpu s.issue.bank fun u => { u with interp := f u.interp }

/-- The STAT write that ends every command: the STAT of the issuing bank is rewritten whole, on the state the
command left; no other bank is touched (30_encoding.md R129). -/
def State.finish (s : State) (f : CmdFlags) : State := s.modifyPort fun q => { q with stat := statWord s.clock f }

/-- The end of a command that completed. -/
def State.complete (s : State) : State := s.finish flagsNone

/-- `raise Denied`: no change but the STAT write, with DENIED = 1 (00_scope.md R20, 60_exceptions.md R391). -/
def State.raiseDenied (s : State) : State := s.finish { flagsNone with denied := true }

/-- `raise Illegal`: no change but the STAT write, with ILLEGAL = 1 (30_encoding.md R128). -/
def State.raiseIllegal (s : State) : State := s.finish { flagsNone with illegal := true }

/-- The end of a command whose register fields are checked: a field of 8 to 15 makes the word illegal and nothing is
done (30_encoding.md R127, 40_fixedpoint.md section 4). `decode` gives no such command; the meanings are total
(log 12). -/
def State.completeIf (s : State) (legal : Bool) (t : State) : State := if legal then t.complete else s.raiseIllegal

end Sys2Proof.Machine
end

