-- ==== Sys2Proof/Machine/Estimator.lean ====
section
/-! DEFINITION. The PLL/FLL offset and frequency estimator: the procedure HardUpdate, which HUPD and the offset
write of ADJT call, and HUPD (43_pll_fll.md). -/

namespace Sys2Proof.Machine

/-- m: the sample limited to ±MAXPHASE (43_pll_fll.md R274). -/
def clampSample (sample : Int) : Int := clampInt sample (-maxPhase) maxPhase

/-- The reference second the elapsed time is measured from: SEC itself on the first update or under FREQHOLD
(R277). -/
def updateReference (k : Clock) : BitVec 64 := if k.has .freqhold || k.reftime == 0#64 then k.sec else k.reftime

/-- e: whole seconds since the last reference update, a negative count taken as 0 (R278). -/
def updateElapsed (k : Clock) : Nat := (k.sec.toInt - (updateReference k).toInt).toNat

/-- f: the PLL term; the shift comes before the multiplication (R279). -/
def pllTerm (c : Params) (k : Clock) (m : Int) (e : Nat) : Fx :=
  fxMul (fxRsh (fxLoadInt m) (2 * (c.pllGain + k.tc))) e

/-- Whether the FLL term joins (R281). -/
def fllEligible (c : Params) (k : Clock) (e : Nat) : Bool :=
  decide (c.minsec ≤ e) && (k.has .fll || decide (c.maxsec < e))

/-- g: the FLL term; the quotient rounds toward zero (R281). -/
def fllTerm (c : Params) (m : Int) (e : Nat) : Fx := fxRsh (fxLoadInt ((m * 16).tdiv e)) (c.fllGain + 4)

/-- The frequency before the clamp: FREQ, the PLL term and, where eligible, the FLL term (R280, R281). -/
def updatedFreq (c : Params) (k : Clock) (m : Int) : Fx :=
  let e := updateElapsed k
  let nf := fxAdd k.freq (pllTerm c k m e)
  if fllEligible c k e then fxAdd nf (fllTerm c m e) else nf

/-- The load of the residual offset: skipped where the PPS path owns it (R274, R275). -/
def loadOffset (k : Clock) (m : Int) : Clock :=
  if k.has .ppstime && k.has .ppssignal then k else { k with offset := fxLoadInt m }

/-- `HardUpdate(sample)` (R272): no-op with the PLL disabled (R273); on the PPS-owned path only the reference time
follows (R276); else REFTIME, FREQ and STATUS.MODE are written together (R282, R283, R284). -/
def hardUpdate (c : Params) (k : Clock) (sample : Int) : Clock :=
  if !k.has .pll then k
  else
    let m := clampSample sample
    let k1 := loadOffset k m
    if k.has .ppsfreq && k.has .ppssignal then { k1 with reftime := k.sec }
    else
      { k1 with
        reftime := k.sec
        freq := fxClampMag (updatedFreq c k m) maxFreq
        status := statusPut k.status .mode (fllEligible c k (updateElapsed k)) }

/-- HUPD: `HardUpdate(S64(pair(ARG1, ARG0)))`, nanoseconds whatever STATUS.NANO says (R271). -/
def execHupd (s : State) : Host.Outcome State Fault Refusal :=
  .next { s with clock := hardUpdate s.cfg s.clock s.port.argPair.toInt }.complete

end Sys2Proof.Machine
end

