-- ==== Sys2Proof/Machine/Control.lean ====
section
/-! DEFINITION. The control interface: ADJT and GETT (41_control.md). -/

namespace Sys2Proof.Machine

/-- MAXERROR and ESTERROR writes (41_control.md R193). -/
def writeErrors (r : Req) (k : Clock) : Clock :=
  { k with
    maxerror := if modeHas r .maxerror then r.maxerror else k.maxerror
    esterror := if modeHas r .esterror then r.esterror else k.esterror }

/-- A status write that disables the PLL: PLL set now and clear in the request (R194). -/
def disablesPll (r : Req) (k : Clock) : Bool := modeHas r .status && k.has .pll && !r.status.getLsbD 0

/-- The clock side of disabling the PLL: STATE <- OK, STATUS <- UNSYNC only (R194). -/
def disablePll (r : Req) (k : Clock) : Clock :=
  if disablesPll r k then { k with state := 0#3, status := 0x0040#16 } else k

/-- The status write proper: bits 7:0 from the request, bits 15:8 kept (R195). -/
def writeStatus (r : Req) (k : Clock) : Clock :=
  if modeHas r .status then
    { k with status := (k.status &&& 0xFF00#16) ||| (r.status.setWidth 16 &&& 0x00FF#16) }
  else k

/-- Time constant and TAI, both from REQ_CONSTANT (R196, R197). -/
def writeConstant (c : Params) (r : Req) (k : Clock) : Clock :=
  { k with
    tc := if modeHas r .timeconst then (clampInt r.constant.toInt 0 c.maxtc).toNat else k.tc
    tai := if modeHas r .tai then r.constant else k.tai }

/-- Resolution mode: NANO, then MICRO (R199). -/
def writeResolution (r : Req) (k : Clock) : Clock :=
  let k1 := if modeHas r .nano then k.put .nano true else k
  if modeHas r .micro then k1.put .nano false else k1

/-- Clock source: CLKB, then CLKA (R200). -/
def writeSource (r : Req) (k : Clock) : Clock :=
  let k1 := if modeHas r .clkb then k.put .clk true else k
  if modeHas r .clka then k1.put .clk false else k1

/-- The sample of an offset write: nanoseconds, or microseconds times 1000, exact (R201). -/
def requestSample (r : Req) (k : Clock) : Int :=
  if k.has .nano then r.offsetPair.toInt else r.offsetPair.toInt * 1000

/-- Offset write, through the estimator (R201). -/
def writeOffset (c : Params) (r : Req) (k : Clock) : Clock :=
  if modeHas r .offset then hardUpdate c k (requestSample r k) else k

/-- Timescale units in one unit of scaled ppm: 1000 * 2^32 / 2^16 (R202). -/
abbrev scaledPpm : Int := 65536000

/-- Frequency write, exact before the clamp to ±MAXFREQ (R202). -/
def writeFrequency (r : Req) (k : Clock) : Clock :=
  if modeHas r .frequency then
    { k with freq := wrap64 (clampInt (r.freqPair.toInt * scaledPpm) (-maxFreq * fxOne) (maxFreq * fxOne)) }
  else k

/-- All the clock writes of ADJT in the order of R190. -/
def adjustClock (c : Params) (r : Req) (k : Clock) : Clock :=
  writeFrequency r <| writeOffset c r <| writeSource r <| writeResolution r <| writeConstant c r <|
    writeStatus r <| disablePll r <| writeErrors r k

/-- The PPS writes of ADJT: PPS_SHIFT <- 2 when the PLL is disabled (R194), PPS_SHIFTMAX clamped (R198). -/
def adjustPps (r : Req) (k : Clock) (v : Pps) : Pps :=
  { v with
    shift := if disablesPll r k then 2 else v.shift
    shiftmax := if modeHas r .ppsmax then (clampInt r.shift.toInt 2 15).toNat else v.shiftmax }

/-- RSP_OFFSET: whole nanoseconds, or microseconds truncated toward zero (R205). -/
def rspOffset (k : Clock) : BitVec 64 :=
  wrap64 (if k.has .nano then fxGetInt k.offset else (fxGetInt k.offset).tdiv 1000)

/-- RSP_JITTER: nanoseconds, or microseconds truncated toward zero (R205). -/
def rspJitter (k : Clock) (v : Pps) : Word :=
  wrap32 (if k.has .nano then v.jitter.toInt else v.jitter.toInt.tdiv 1000)

/-- The full snapshot (R204, R205). -/
def snapshot (k : Clock) (v : Pps) : Rsp where
  offset := rspOffset k
  freq := wrap64 (k.freq.toInt / scaledPpm)
  maxerror := k.maxerror
  esterror := k.esterror
  status := k.status.setWidth 32
  constant := BitVec.ofNat 32 k.tc
  tai := k.tai
  state := k.state.setWidth 32
  sec := k.sec
  nsec := k.nsec
  shift := BitVec.ofNat 32 v.shift
  shiftmax := BitVec.ofNat 32 v.shiftmax
  valid := v.valid
  ppsfreq := wrap64 (v.freq.toInt / scaledPpm)
  jitter := rspJitter k v
  stabil := v.stabil
  jitcnt := v.jitcnt
  calcnt := v.calcnt
  errcnt := v.errcnt
  stbcnt := v.stbcnt
  reftime := k.reftime
  rawoffset := k.offset
  rawfreq := k.freq
  rawadj := k.adj
  rawphase := k.phase
  rawppsfreq := v.freq

/-- Whether a request is a privileged write: modes != 0, the reserved mode bits included (R191, R192). -/
def requestWrites (r : Req) : Bool := modesOf r != 0#16

/-- ADJT: the source's AdjustTime (R190). Denied, it writes nothing but STAT (R192). -/
def execAdjt (s : State) : Host.Outcome State Fault Refusal :=
  let r := s.port.req
  if requestWrites r && !s.issue.priv then .next s.raiseDenied
  else
    let k := adjustClock s.cfg r s.clock
    let v := adjustPps r s.clock s.pps
    .next ({ s with clock := k, pps := v }.modifyPort fun q => { q with rsp := snapshot k v }).complete

/-- GETT: five response fields from the tick-boundary clock, no shared state (R212, R213). -/
def execGett (s : State) : Host.Outcome State Fault Refusal :=
  .next
    (s.modifyPort fun q =>
      { q with
        rsp :=
          { q.rsp with
            sec := s.clock.sec
            nsec := s.clock.nsec
            maxerror := s.clock.maxerror
            esterror := s.clock.esterror
            tai := s.clock.tai } }).complete

end Sys2Proof.Machine
end

