-- ==== Sys2Proof/Machine/FixedPoint.lean ====
section
/-! DEFINITION. The ten FX commands (40_fixedpoint.md R170 to R179). None samples an input, checks privilege or
touches any state but the T or RES register named; both operands are read before the write. -/

namespace Sys2Proof.Machine

/-- FXADD Td, Ts: `T[d] <- FxAdd(T[d], T[s])` (R170). -/
def execFxadd (rd rs : BitVec 4) (s : State) : Host.Outcome State Fault Refusal :=
  .next (s.completeIf (regLegal rd && regLegal rs) (s.writeT rd (fxAdd (s.readT rd) (s.readT rs))))

/-- FXSUB Td, Ts: `T[d] <- FxSub(T[d], T[s])` (R171). -/
def execFxsub (rd rs : BitVec 4) (s : State) : Host.Outcome State Fault Refusal :=
  .next (s.completeIf (regLegal rd && regLegal rs) (s.writeT rd (fxSub (s.readT rd) (s.readT rs))))

/-- FXNEG Td: `T[d] <- FxNeg(T[d])` (R172). -/
def execFxneg (rd : BitVec 4) (s : State) : Host.Outcome State Fault Refusal :=
  .next (s.completeIf (regLegal rd) (s.writeT rd (fxNeg (s.readT rd))))

/-- FXRSH Td, n: `T[d] <- FxRsh(T[d], n)` (R173). -/
def execFxrsh (rd : BitVec 4) (sh : BitVec 6) (s : State) : Host.Outcome State Fault Refusal :=
  .next (s.completeIf (regLegal rd) (s.writeT rd (fxRsh (s.readT rd) sh.toNat)))

/-- FXMUL Td: `T[d] <- FxMul(T[d], u32(ARG0))`, ARG0 unsigned (R174). -/
def execFxmul (rd : BitVec 4) (s : State) : Host.Outcome State Fault Refusal :=
  .next (s.completeIf (regLegal rd) (s.writeT rd (fxMul (s.readT rd) s.port.arg0.toNat)))

/-- FXLINT Td: `T[d] <- FxLoadInt(ARG0)`, ARG0 signed (R175). -/
def execFxlint (rd : BitVec 4) (s : State) : Host.Outcome State Fault Refusal :=
  .next (s.completeIf (regLegal rd) (s.writeT rd (fxLoadInt s.port.arg0.toInt)))

/-- FXGINT Ts: `RES0 <- u32(FxGetInt(T[s]))` (R176). -/
def execFxgint (rs : BitVec 4) (s : State) : Host.Outcome State Fault Refusal :=
  .next (s.completeIf (regLegal rs) (s.modifyPort fun q => { q with res0 := wrap32 (fxGetInt (s.readT rs)) }))

/-- FXCLR Td: `T[d] <- 0` (R177). -/
def execFxclr (rd : BitVec 4) (s : State) : Host.Outcome State Fault Refusal :=
  .next (s.completeIf (regLegal rd) (s.writeT rd fxClr))

/-- FXLD Td: `T[d] <- pair(ARG1, ARG0)` (R178). -/
def execFxld (rd : BitVec 4) (s : State) : Host.Outcome State Fault Refusal :=
  .next (s.completeIf (regLegal rd) (s.writeT rd s.port.argPair))

/-- FXST Ts: `RES0 <- LO(T[s]) ; RES1 <- HI(T[s])` (R179). -/
def execFxst (rs : BitVec 4) (s : State) : Host.Outcome State Fault Refusal :=
  .next (s.completeIf (regLegal rs)
    (s.modifyPort fun q => { q with res0 := loWord (s.readT rs), res1 := hiWord (s.readT rs) }))

end Sys2Proof.Machine
end

