-- ==== Sys2Proof/Machine/Interpolator.lean ====
section
/-! DEFINITION. The multiprocessor nanosecond interpolator: CALIB and NOW (45_interpolator.md). -/

namespace Sys2Proof.Machine

/-- A (seconds, nanoseconds) pair as nanoseconds, exact; NSEC may be any signed value (45_interpolator.md R354,
R363). -/
def totalNs (sec : BitVec 64) (nsec : BitVec 32) : Int := sec.toInt * nanosecond + nsec.toInt

/-- num: the nanoseconds the tick-boundary clock advanced since the sample (R354). -/
def calibNum (k : Clock) (u : Interp) : Int :=
  (k.sec.toInt - u.stsec.toInt) * nanosecond + (k.nsec.toInt - u.stnsec.toInt)

/-- The ratio after a CALIB: seeded on the first (R352), else replaced by a positive sample that fits (R354). -/
def calibRatio (c : Params) (k : Clock) (u : Interp) (now : BitVec 64) : Interp :=
  if !u.initd then
    { u with num := wrap64 nanosecond, den := BitVec.ofNat 64 c.cpuHz, initd := true }
  else
    let num := calibNum k u
    let den := cycDelta c now u.scnt
    if 0 < num ∧ num ≤ 9223372036854775807 ∧ 0 < den then { u with num := wrap64 num, den := wrap64 den } else u

/-- `Calibrate`: the ratio, then the sample, replaced on every CALIB (R351, R355). -/
def calibrate (c : Params) (k : Clock) (u : Interp) (now : BitVec 64) : Interp :=
  { calibRatio c k u now with scnt := now, stsec := k.sec, stnsec := k.nsec }

/-- CALIB (R351). -/
def execCalib (s : State) : Host.Outcome State Fault Refusal :=
  .next (s.modifyInterp fun u => calibrate s.cfg s.clock u (sampleCyc s.cfg s.issue.cyc)).complete

/-- off: the interpolated offset, clamped to [0, one tick length]; 0 before the first CALIB (R357, R358, R359). -/
def nowOffset (c : Params) (u : Interp) (mcnt now : BitVec 64) : Int :=
  if u.initd then min (cycDelta c now mcnt * u.num.toInt / (u.den.toNat : Int)) c.tickNs else 0

/-- cand: the candidate timestamp in nanoseconds (R356). -/
def nowCandidate (s : State) : Int :=
  totalNs s.clock.sec s.clock.nsec + nowOffset s.cfg s.self.interp s.mcnt (sampleCyc s.cfg s.issue.cyc)

/-- The previously returned timestamp in nanoseconds (R356). -/
def nowLast (s : State) : Int := totalNs s.lastSec s.lastNsec

/-- Whether the candidate is replaced by previous + 1 ns: it is not after the previous timestamp and not more than
one second before it (R360, R361). -/
def nowHeld (cand last : Int) : Bool := decide (cand ≤ last) && decide (last - cand ≤ nanosecond)

/-- out: the timestamp NOW returns, in nanoseconds (R356, R360, R361). -/
def nowOut (cand last : Int) : Int := if nowHeld cand last then last + 1 else cand

/-- NOW: LAST takes the returned value in every case, and the results are its two parts (R356, R360). -/
def execNow (s : State) : Host.Outcome State Fault Refusal :=
  let out := nowOut (nowCandidate s) (nowLast s)
  let sec := wrap64 (out / nanosecond)
  let nsec := wrap32 (out % nanosecond)
  .next
    (({ s with lastSec := sec, lastNsec := nsec }.modifyPort fun q =>
      { q with res0 := loWord sec, res1 := hiWord sec, res2 := nsec }).finish
      { flagsNone with mono := nowHeld (nowCandidate s) (nowLast s) })

end Sys2Proof.Machine
end

