-- ==== Sys2Proof/Machine/PpsDiscipline.lean ====
section
/-! DEFINITION. The PPS discipline: HPPS in the source's stages (44_pps.md). -/

namespace Sys2Proof.Machine

/-- The part of the shared state HPPS works on. -/
structure Filter where
  /-- The clock state: STATUS, OFFSET and FREQ may change. -/
  clock : Clock
  /-- The PPS filter state. -/
  pps : Pps
  deriving DecidableEq, Repr

/-- A normalised edge: the nearest second and the signed fraction (44_pps.md R302). -/
structure Edge where
  /-- u_sec. -/
  sec : BitVec 64
  /-- u_nsec, in [-500 000 000, 499 999 999]. -/
  nsec : Int
  deriving DecidableEq, Repr

/-- Edge normalisation: clamp the nanoseconds, then the nearest second (R302). -/
def normaliseEdge (tsSec : BitVec 64) (tsNsec : Int) : Edge :=
  let n := clampInt tsNsec 0 (nanosecond - 1)
  if 500000000 ≤ n then ⟨wrap64 (tsSec.toInt + 1), n - nanosecond⟩ else ⟨tsSec, n⟩

/-- Lazy initialisation on the first edge (R303). -/
def ppsFirst (v : Pps) (e : Edge) (count : BitVec 32) : Pps :=
  if v.init then v else { v with lastsec := e.sec, lastcount := count, fcount := 0#64, init := true }

/-- Entry actions on STATUS, done for every HPPS (R304). -/
def entryStatus (w : BitVec 16) : BitVec 16 :=
  statusPut (statusPut (statusPut (statusPut w .ppssignal true) .ppsjitter true) .ppswander false) .ppserror false

/-- Initialisation and entry actions (R303, R304). -/
def ppsEntry (c : Params) (f : Filter) (e : Edge) (count : BitVec 32) : Filter where
  clock := { f.clock with status := entryStatus f.clock.status }
  pps := { ppsFirst f.pps e count with valid := BitVec.ofNat 32 c.ppsValidInit }

/-- A duplicate hit within the same second, never the first edge; `v` is the state before the command (R305). -/
def isDuplicate (v : Pps) (e : Edge) : Bool := v.init && e.sec == v.tfsec

/-- v: the apparent instantaneous frequency error, before the window shifts (R306). -/
def edgeStep (v : Pps) (e : Edge) : Int := e.nsec - v.tfn0.toInt

/-- One wraparound correction, then one tick-boundary correction (R311). -/
def correctedDelta (c : Params) (d : Int) : Int :=
  let d1 := if 500000000 < d then d - nanosecond else if d < -500000000 then d + nanosecond else d
  let tick : Int := c.tickNs
  let h := tick / 2
  if h < d1 then d1 - tick else if d1 < -h then d1 + tick else d1

/-- Recording: the window shifts and the counter delta is accumulated (R307, R310, R311). A sum outside 64 signed
bits is the free value (log 9). -/
def recordEdge (c : Params) (v : Pps) (e : Edge) (count : BitVec 32) (free : BitVec 64) : Pps :=
  { v with
    tfn2 := v.tfn1
    tfn1 := v.tfn0
    tfn0 := wrap32 e.nsec
    tfsec := e.sec
    lastcount := count
    fcount := fitS64 (v.fcount.toInt + correctedDelta c (count.toInt - v.lastcount.toInt)) free }

/-- The range gate: the edge step is beyond ±MAXFREQ (R306). -/
def isGated (step : Int) : Bool := decide (maxFreq < step) || decide (step < -maxFreq)

/-- The middle of three (R315). -/
def median3 (a b c : Int) : Int := max (min a b) (min (max a b) c)

/-- The greatest less the least (R315). -/
def span3 (a b c : Int) : Int := max (max a b) c - min (min a b) c

/-- The median of the window. -/
def windowMedian (v : Pps) : Int := median3 v.tfn0.toInt v.tfn1.toInt v.tfn2.toInt

/-- The span of the window. -/
def windowSpan (v : Pps) : Int := span3 v.tfn0.toInt v.tfn1.toInt v.tfn2.toInt

/-- Popcorn: the span is strictly above the jitter average shifted left by POPCORN (R317). -/
def isPopcorn (c : Params) (v : Pps) : Bool := decide (v.jitter.toInt * 2 ^ c.popcorn < windowSpan v)

/-- The decayed jitter average (R319); an average outside 32 signed bits is the free value (log 9). -/
def decayJitter (c : Params) (v : Pps) (free : BitVec 32) : BitVec 32 :=
  fitS32 (v.jitter.toInt + (windowSpan v - v.jitter.toInt) / 2 ^ c.ppsAvg) free

/-- Stages 2 and 3: median, popcorn rejection, residual offset, jitter average (R315 to R319). -/
def filterPhase (c : Params) (f : Filter) (free : BitVec 32) : Filter :=
  let v := f.pps
  let pop := isPopcorn c v
  { clock :=
      { f.clock with
        status := statusPut f.clock.status .ppsjitter pop
        offset := if !pop && f.clock.has .ppstime then fxLoadInt (-windowMedian v) else f.clock.offset }
    pps :=
      { v with
        jitcnt := if pop then v.jitcnt + 1#32 else v.jitcnt
        jitter := decayJitter c v free } }

/-- e: the seconds since the averaging interval began (R321). -/
def intervalElapsed (v : Pps) (e : Edge) : Int := e.sec.toInt - v.lastsec.toInt

/-- The interval has not ended (R321). -/
def intervalOpen (v : Pps) (e : Edge) : Bool := decide (intervalElapsed v e < 2 ^ v.shift)

/-- The sum is out of its sanity bounds or the seconds mismatch (R323). -/
def intervalBad (v : Pps) (e : Edge) : Bool :=
  let tot := v.fcount.toInt
  decide (maxFreq * 2 ^ v.shift < tot) || decide (tot < -(maxFreq * 2 ^ v.shift)) ||
    decide (intervalElapsed v e ≠ 2 ^ v.shift)

/-- Interval end: counted, and a new interval starts at this edge (R322). -/
def restartInterval (v : Pps) (e : Edge) : Pps :=
  { v with calcnt := v.calcnt + 1#32, lastsec := e.sec, fcount := 0#64 }

/-- raw = wrap64(tot * 2^(32 - PPS_SHIFT)) (R324). -/
def rawFreq (v : Pps) (tot : Int) : Fx := wrap64 (tot * 2 ^ (32 - v.shift))

/-- wfx before the bound: raw less PPS_FREQ (R325). -/
def wanderOf (v : Pps) (raw : Fx) : Fx := fxSub raw v.freq

/-- The wander is out of bound: bad; the test is on its integer part (R325, R326). -/
def wanderBad (c : Params) (wfx : Fx) : Bool :=
  decide ((c.maxwander : Int) < fxGetInt wfx) || decide (fxGetInt wfx < -(c.maxwander : Int))

/-- The wander, replaced by the bound where it is out of bound (R326). -/
def boundedWander (c : Params) (wfx : Fx) : Fx :=
  if (c.maxwander : Int) < fxGetInt wfx then fxLoadInt c.maxwander
  else if fxGetInt wfx < -(c.maxwander : Int) then fxLoadInt (-(c.maxwander : Int))
  else wfx

/-- Its whole ns/s, likewise (R326). -/
def boundedWanderInt (c : Params) (wfx : Fx) : Int :=
  clampInt (fxGetInt wfx) (-(c.maxwander : Int)) c.maxwander

/-- Shift adaptation (R327). -/
def adaptShift (v : Pps) : Pps :=
  if 4 ≤ v.intcnt then
    if v.shift < v.shiftmax then { v with shift := v.shift + 1, intcnt := 0 } else { v with intcnt := 4 }
  else if v.intcnt ≤ -4 ∨ v.shiftmax < v.shift then
    if 2 < v.shift then { v with shift := v.shift - 1, intcnt := 0 } else { v with intcnt := -4 }
  else v

/-- The decayed stability metric (R329); a metric outside 32 signed bits is the free value (log 9). -/
def decayStabil (c : Params) (v : Pps) (w : Int) (free : BitVec 32) : BitVec 32 :=
  fitS32 (v.stabil.toInt + ((w.natAbs : Int) * c.scalePpm - v.stabil.toInt) / 2 ^ c.ppsAvg) free

/-- A rejected interval: PPSERROR and its count, nothing else (R323). -/
def rejectInterval (f : Filter) : Filter where
  clock := f.clock.put .ppserror true
  pps := { f.pps with errcnt := f.pps.errcnt + 1#32 }

/-- An accepted interval: wander, hysteresis, stability, PPS_FREQ and its copy into FREQ (R324 to R330). `tot` is the
interval's sum. -/
def acceptInterval (c : Params) (f : Filter) (tot : Int) (free : BitVec 32) : Filter :=
  let v := f.pps
  let wfx := wanderOf v (rawFreq v tot)
  let bad := wanderBad c wfx
  let freq' := fxClampMag (fxAdd v.freq (boundedWander c wfx)) maxFreq
  let v1 := adaptShift { v with intcnt := if bad then v.intcnt - 1 else v.intcnt + 1 }
  { clock :=
      { f.clock with
        status := if bad then statusPut f.clock.status .ppswander true else f.clock.status
        freq := if f.clock.has .ppsfreq then freq' else f.clock.freq }
    pps :=
      { v1 with
        stbcnt := if bad then v.stbcnt + 1#32 else v.stbcnt
        stabil := decayStabil c v (boundedWanderInt c wfx) free
        freq := freq' } }

/-- Stage 4 at an edge that passed the gate (R321 to R330). -/
def closeInterval (c : Params) (f : Filter) (e : Edge) (free : BitVec 32) : Filter :=
  if intervalOpen f.pps e then f
  else
    let f1 : Filter := { f with pps := restartInterval f.pps e }
    if intervalBad f.pps e then rejectInterval f1 else acceptInterval c f1 f.pps.fcount.toInt free

/-- The three free values one HPPS may need (log 9). -/
structure PpsFree where
  /-- For PPS_FCOUNT. -/
  fcount : BitVec 64
  /-- For PPS_JITTER. -/
  jitter : BitVec 32
  /-- For PPS_STABIL. -/
  stabil : BitVec 32
  deriving DecidableEq, Repr

/-- The free values of draw n. -/
def ppsFree (n : Nat) : PpsFree := ⟨Config.fcountOutOfRange n, Config.jitterOutOfRange n, Config.stabilOutOfRange n⟩

/-- `hardpps` (R301): entry, duplicate test, recording, gate, phase, interval. -/
def hardPps (c : Params) (f : Filter) (e : Edge) (count : BitVec 32) (free : PpsFree) : Filter :=
  let f1 := ppsEntry c f e count
  if isDuplicate f.pps e then f1
  else
    let f2 : Filter := { f1 with pps := recordEdge c f1.pps e count free.fcount }
    if isGated (edgeStep f.pps e) then f2
    else closeInterval c (filterPhase c f2 free.jitter) e free.stabil

/-- The edge in the ARG registers of a bank: ARG1:ARG0 seconds, ARG2 nanoseconds (R301). -/
def Port.edge (q : Port) : Edge := normaliseEdge q.argPair q.arg2.toInt

/-- HPPS (R301). Each HPPS is one draw of free values. -/
def execHpps (s : State) : Host.Outcome State Fault Refusal :=
  let f := hardPps s.cfg ⟨s.clock, s.pps⟩ s.port.edge s.port.arg3 (ppsFree s.draws)
  .next { s with clock := f.clock, pps := f.pps, draws := s.draws + 1 }.complete

end Sys2Proof.Machine
end

