-- ==== Sys2Proof/Machine/TickSecond.lean ====
section
/-! DEFINITION. The tick and second-rollover update with the leap-second machine: TICK, SECOVF, SETT
(42_tick_second.md). -/

namespace Sys2Proof.Machine

/-- q: the whole nanoseconds in the accumulator, rounding toward minus infinity (42_tick_second.md R235). -/
def tickCarry (c : Params) (phase : Fx) : Int := fxGetInt phase / (c.hz : Int)

/-- `TickAdjust` on the clock state: accumulate, carry, apply (R234, R235, R236). -/
def tickAdjust (c : Params) (k : Clock) (residualUs : Int) : Clock :=
  let acc := fxAdd k.phase k.adj
  let q := tickCarry c acc
  { k with
    phase := fxSub acc (fxLoadInt (q * c.hz))
    nsec := wrap32 (k.nsec.toInt + q + 1000 * residualUs) }

/-- TICK: the master count latch (R233) and TickAdjust with the residual of ARG0 in microseconds (R232). -/
def execTick (s : State) : Host.Outcome State Fault Refusal :=
  .next
    { s with
      mcnt := sampleCyc s.cfg s.issue.cyc
      clock := tickAdjust s.cfg s.clock s.port.arg0.toInt }.complete

/-- Normalise: one second at most is moved from NSEC to SEC (R240). -/
def normaliseSecond (k : Clock) : Clock :=
  if secPending k then { k with nsec := wrap32 (k.nsec.toInt - nanosecond), sec := wrap64 (k.sec.toInt + 1) } else k

/-- Seconds in a day (R243). -/
abbrev dayLength : Int := 86400

/-- The leap machine: one transition at most, chosen by STATE, on the SEC that the normalisation left (R242, R243).
Codes 5 to 7 are treated as OK. -/
def leapStep (k : Clock) : Clock :=
  match k.state with
  | 1#3 => if k.sec.toInt % dayLength = 0 then { k with sec := wrap64 (k.sec.toInt - 1), state := 3#3 } else k
  | 2#3 =>
    if (k.sec.toInt + 1) % dayLength = 0 then
      { k with sec := wrap64 (k.sec.toInt + 1), tai := wrap32 (k.tai.toInt - 1), state := 4#3 }
    else k
  | 3#3 => { k with tai := wrap32 (k.tai.toInt + 1), state := 4#3 }
  | 4#3 => if !k.has .ins && !k.has .del then { k with state := 0#3 } else k
  | _ => { k with state := if k.has .ins then 1#3 else if k.has .del then 2#3 else 0#3 }

/-- sh: PPS_SHIFT while PPS-time discipline is active with a signal, else PLL_GAIN + TC (R246). -/
def spendShift (c : Params) (k : Clock) (v : Pps) : Nat :=
  if k.has .ppstime && k.has .ppssignal then v.shift else c.pllGain + k.tc

/-- Spend a share of the residual offset and recompute the adjustment (R246, R247). -/
def spendOffset (k : Clock) (sh : Nat) : Clock :=
  let spent := fxRsh k.offset sh
  { k with
    offset := fxSub k.offset spent
    adj := fxAdd (fxAdd spent k.freq) (fxLoadInt nanosecond) }

/-- The PPS-validity countdown, not below 0 (R248). -/
def countDown (v : Pps) : Pps := if 0 < v.valid.toNat then { v with valid := v.valid - 1#32 } else v

/-- At zero, PPS-signal-present is cleared (R248). -/
def expireSignal (k : Clock) (v : Pps) : Clock := if v.valid == 0#32 then k.put .ppssignal false else k

/-- MAXERROR gains the nominal tolerance, modulo 2^32 (R241). -/
def growMaxerror (c : Params) (k : Clock) : Clock :=
  { k with maxerror := BitVec.ofNat 32 (k.maxerror.toNat + c.tolUs) }

/-- The clock state after the steps of SECOVF before the countdown (R240 to R247). -/
def secondClock (c : Params) (k : Clock) (v : Pps) : Clock :=
  let k1 := leapStep (growMaxerror c (normaliseSecond k))
  spendOffset k1 (spendShift c k1 v)

/-- SECOVF: the source's `SecondOverflow` (R239). -/
def execSecovf (s : State) : Host.Outcome State Fault Refusal :=
  let v := countDown s.pps
  .next { s with pps := v, clock := expireSignal (secondClock s.cfg s.clock s.pps) v }.complete

/-- SETT: privileged clock-set; the nanoseconds are clamped, the seconds are not (R252). -/
def execSett (s : State) : Host.Outcome State Fault Refusal :=
  if !s.issue.priv then .next s.raiseDenied
  else
    .next
      { s with
        clock :=
          { s.clock with
            sec := s.port.argPair
            nsec := wrap32 (clampInt s.port.arg2.toInt 0 (nanosecond - 1)) } }.complete

end Sys2Proof.Machine
end

