-- ==== Sys2Proof/Machine/Dispatch.lean ====
section
/-! DEFINITION. One arm per command, each one call of its meaning (30_encoding.md R125). -/

namespace Sys2Proof.Machine

def exec (i : Instr) (s : State) : Host.Outcome State Fault Refusal :=
  match i with
  | .fxadd rd rs => Sys2Proof.Machine.execFxadd rd rs s
  | .fxsub rd rs => Sys2Proof.Machine.execFxsub rd rs s
  | .fxneg rd => Sys2Proof.Machine.execFxneg rd s
  | .fxrsh rd sh => Sys2Proof.Machine.execFxrsh rd sh s
  | .fxmul rd => Sys2Proof.Machine.execFxmul rd s
  | .fxlint rd => Sys2Proof.Machine.execFxlint rd s
  | .fxgint rs => Sys2Proof.Machine.execFxgint rs s
  | .fxclr rd => Sys2Proof.Machine.execFxclr rd s
  | .fxld rd => Sys2Proof.Machine.execFxld rd s
  | .fxst rs => Sys2Proof.Machine.execFxst rs s
  | .adjt => Sys2Proof.Machine.execAdjt s
  | .gett => Sys2Proof.Machine.execGett s
  | .tick => Sys2Proof.Machine.execTick s
  | .secovf => Sys2Proof.Machine.execSecovf s
  | .sett => Sys2Proof.Machine.execSett s
  | .hupd => Sys2Proof.Machine.execHupd s
  | .hpps => Sys2Proof.Machine.execHpps s
  | .calib => Sys2Proof.Machine.execCalib s
  | .now => Sys2Proof.Machine.execNow s

end Sys2Proof.Machine
end

