-- ==== Sys2Proof/Decode.lean ====
section
/-! DEFINITION. The command decoder and encoder, from the fields, formats and opcode map of 30_encoding.md
(R121, R122, R125, R127), and the opcode table as data. -/

namespace Sys2Proof

/-- Why a word is no command (30_encoding.md R127). The core does not show which reason applied (R391); the names
are the model's (log 11). -/
inductive Illegal where
  /-- An OP value that R125 does not list. -/
  | unassignedOpcode
  /-- A used register field with value 8 to 15. -/
  | registerOutOfRange
  /-- A field the format does not use, Z among them, that is not 0. -/
  | unusedFieldNotZero
  deriving DecidableEq, Repr

/-- What a word written to CMD is: a command, or illegal for a reason. -/
inductive Decoded where
  /-- The word is the encoding of this command. -/
  | command (i : Instr)
  /-- The word is illegal. -/
  | illegal (why : Illegal)
  deriving DecidableEq, Repr

/-- OP, bits 31:24 (30_encoding.md R121). -/
def fieldOp (w : Word) : BitVec 8 := w.extractLsb' 24 8
/-- RD, bits 23:20. -/
def fieldRd (w : Word) : BitVec 4 := w.extractLsb' 20 4
/-- RS, bits 19:16. -/
def fieldRs (w : Word) : BitVec 4 := w.extractLsb' 16 4
/-- Z, bits 15:6. -/
def fieldZ (w : Word) : BitVec 10 := w.extractLsb' 6 10
/-- SH, bits 5:0. -/
def fieldSh (w : Word) : BitVec 6 := w.extractLsb' 0 6

/-- The common end of every format: used registers in range, unused fields zero (30_encoding.md R122, R127). -/
def formatted (regsLegal unusedZero : Bool) (i : Instr) : Decoded :=
  if !regsLegal then .illegal .registerOutOfRange
  else if !unusedZero then .illegal .unusedFieldNotZero
  else .command i

/-- Format F-RR: RD and RS used (30_encoding.md R122). -/
def formatRR (w : Word) (mk : BitVec 4 → BitVec 4 → Instr) : Decoded :=
  formatted (regLegal (fieldRd w) && regLegal (fieldRs w)) (fieldZ w == 0#10 && fieldSh w == 0#6)
    (mk (fieldRd w) (fieldRs w))

/-- Format F-R: RD used. -/
def formatR (w : Word) (mk : BitVec 4 → Instr) : Decoded :=
  formatted (regLegal (fieldRd w)) (fieldRs w == 0#4 && fieldZ w == 0#10 && fieldSh w == 0#6) (mk (fieldRd w))

/-- Format F-S: RS used. -/
def formatS (w : Word) (mk : BitVec 4 → Instr) : Decoded :=
  formatted (regLegal (fieldRs w)) (fieldRd w == 0#4 && fieldZ w == 0#10 && fieldSh w == 0#6) (mk (fieldRs w))

/-- Format F-RI: RD and SH used. -/
def formatRI (w : Word) (mk : BitVec 4 → BitVec 6 → Instr) : Decoded :=
  formatted (regLegal (fieldRd w)) (fieldRs w == 0#4 && fieldZ w == 0#10) (mk (fieldRd w) (fieldSh w))

/-- Format F-0: OP alone. -/
def format0 (w : Word) (i : Instr) : Decoded :=
  formatted true (fieldRd w == 0#4 && fieldRs w == 0#4 && fieldZ w == 0#10 && fieldSh w == 0#6) i

/-- The opcode map (30_encoding.md R125), total on every word: a word that is no command is illegal, by name. -/
def decode (w : Word) : Decoded :=
  match fieldOp w with
  | 0x01#8 => formatRR w .fxadd
  | 0x02#8 => formatRR w .fxsub
  | 0x03#8 => formatR w .fxneg
  | 0x04#8 => formatRI w .fxrsh
  | 0x05#8 => formatR w .fxmul
  | 0x06#8 => formatR w .fxlint
  | 0x07#8 => formatS w .fxgint
  | 0x08#8 => formatR w .fxclr
  | 0x09#8 => formatR w .fxld
  | 0x0A#8 => formatS w .fxst
  | 0x10#8 => format0 w .adjt
  | 0x11#8 => format0 w .gett
  | 0x20#8 => format0 w .tick
  | 0x21#8 => format0 w .secovf
  | 0x22#8 => format0 w .sett
  | 0x30#8 => format0 w .hupd
  | 0x40#8 => format0 w .hpps
  | 0x50#8 => format0 w .calib
  | 0x51#8 => format0 w .now
  | _ => .illegal .unassignedOpcode

/-- The fields OP, RD, RS, Z = 0, SH laid out as 30_encoding.md R121 places them. -/
def packFields (op : BitVec 8) (rd rs : BitVec 4) (sh : BitVec 6) : Word :=
  op ++ rd ++ rs ++ 0#10 ++ sh

/-- The command word of a command (30_encoding.md R125, R132). -/
def encode : Instr → Word
  | .fxadd rd rs => packFields 0x01#8 rd rs 0#6
  | .fxsub rd rs => packFields 0x02#8 rd rs 0#6
  | .fxneg rd => packFields 0x03#8 rd 0#4 0#6
  | .fxrsh rd sh => packFields 0x04#8 rd 0#4 sh
  | .fxmul rd => packFields 0x05#8 rd 0#4 0#6
  | .fxlint rd => packFields 0x06#8 rd 0#4 0#6
  | .fxgint rs => packFields 0x07#8 0#4 rs 0#6
  | .fxclr rd => packFields 0x08#8 rd 0#4 0#6
  | .fxld rd => packFields 0x09#8 rd 0#4 0#6
  | .fxst rs => packFields 0x0A#8 0#4 rs 0#6
  | .adjt => packFields 0x10#8 0#4 0#4 0#6
  | .gett => packFields 0x11#8 0#4 0#4 0#6
  | .tick => packFields 0x20#8 0#4 0#4 0#6
  | .secovf => packFields 0x21#8 0#4 0#4 0#6
  | .sett => packFields 0x22#8 0#4 0#4 0#6
  | .hupd => packFields 0x30#8 0#4 0#4 0#6
  | .hpps => packFields 0x40#8 0#4 0#4 0#6
  | .calib => packFields 0x50#8 0#4 0#4 0#6
  | .now => packFields 0x51#8 0#4 0#4 0#6

/-- One row of the opcode table: a word w is an instance of it when (w AND mask) = pattern (30_encoding.md R122). -/
structure OpcodeRow where
  /-- The fixed bits of the row's format. -/
  mask : Word
  /-- Their values. -/
  pattern : Word
  deriving DecidableEq, Repr

/-- The fixed bits of each format (30_encoding.md R122). -/
def maskRR : Word := 0xFF88FFFF#32
/-- F-R. -/
def maskR : Word := 0xFF8FFFFF#32
/-- F-S. -/
def maskS : Word := 0xFFF8FFFF#32
/-- F-RI. -/
def maskRI : Word := 0xFF8FFFC0#32
/-- F-0. -/
def mask0 : Word := 0xFFFFFFFF#32

/-- The 19 rows of spec/opcode_table.json, in its order. -/
def opcodeTable : List OpcodeRow :=
  [⟨maskRR, 0x01000000#32⟩, ⟨maskRR, 0x02000000#32⟩, ⟨maskR, 0x03000000#32⟩, ⟨maskRI, 0x04000000#32⟩,
   ⟨maskR, 0x05000000#32⟩, ⟨maskR, 0x06000000#32⟩, ⟨maskS, 0x07000000#32⟩, ⟨maskR, 0x08000000#32⟩,
   ⟨maskR, 0x09000000#32⟩, ⟨maskS, 0x0A000000#32⟩, ⟨mask0, 0x10000000#32⟩, ⟨mask0, 0x11000000#32⟩,
   ⟨mask0, 0x20000000#32⟩, ⟨mask0, 0x21000000#32⟩, ⟨mask0, 0x22000000#32⟩, ⟨mask0, 0x30000000#32⟩,
   ⟨mask0, 0x40000000#32⟩, ⟨mask0, 0x50000000#32⟩, ⟨mask0, 0x51000000#32⟩]

/-- The instruction the decoder reads from the low `nbits` bits of w. A command is one 32-bit word written whole
to CMD (30_encoding.md R120), so there is one word and no byte order (20_memory.md R96). -/
def decodeTableWord (nbits w : Nat) : Option Instr :=
  match decode (BitVec.ofNat 32 (w % 2 ^ nbits)) with
  | .command i => some i
  | .illegal _ => none

end Sys2Proof
end

