-- ==== Sys2Proof/Machine/Port.lean ====
section
/-! DEFINITION. The port space: the word map of a bank, reads and writes, and what an access is before any command
runs (20_memory.md R90 to R100). -/

namespace Sys2Proof.Machine

/-- The registers of a bank by name (20_memory.md R92). -/
inductive PortReg where
  | cmd | stat | arg0 | arg1 | arg2 | arg3 | res0 | res1
  | res2 | res3 | reqModes | reqOffsetLo | reqOffsetHi | reqFreqLo | reqFreqHi | reqMaxerror
  | reqEsterror | reqStatus | reqConstant | reqShift | rspOffsetLo | rspOffsetHi | rspFreqLo | rspFreqHi
  | rspMaxerror | rspEsterror | rspStatus | rspConstant | rspTai | rspState | rspSecLo | rspSecHi
  | rspNsec | rspShift | rspShiftmax | rspValid | rspPpsfreqLo | rspPpsfreqHi | rspJitter | rspStabil
  | rspJitcnt | rspCalcnt | rspErrcnt | rspStbcnt | rspReftimeLo | rspReftimeHi | rspRawoffsetLo | rspRawoffsetHi
  | rspRawfreqLo | rspRawfreqHi | rspRawadjLo | rspRawadjHi | rspRawphaseLo | rspRawphaseHi | rspRawppsfreqLo | rspRawppsfreqHi
  deriving DecidableEq, Repr

/-- The word map of a bank: offset and register, in the order of 20_memory.md R92. -/
def portMap : List (Nat × PortReg) :=
  [(0x00, .cmd), (0x01, .stat), (0x02, .arg0), (0x03, .arg1), (0x04, .arg2),
    (0x05, .arg3), (0x06, .res0), (0x07, .res1), (0x08, .res2), (0x09, .res3)] ++
  [(0x10, .reqModes), (0x11, .reqOffsetLo), (0x12, .reqOffsetHi), (0x13, .reqFreqLo), (0x14, .reqFreqHi),
    (0x15, .reqMaxerror), (0x16, .reqEsterror), (0x17, .reqStatus), (0x18, .reqConstant), (0x19, .reqShift)] ++
  [(0x20, .rspOffsetLo), (0x21, .rspOffsetHi), (0x22, .rspFreqLo), (0x23, .rspFreqHi), (0x24, .rspMaxerror),
    (0x25, .rspEsterror), (0x26, .rspStatus), (0x27, .rspConstant), (0x28, .rspTai), (0x29, .rspState),
    (0x2A, .rspSecLo), (0x2B, .rspSecHi), (0x2C, .rspNsec), (0x2D, .rspShift), (0x2E, .rspShiftmax),
    (0x2F, .rspValid), (0x30, .rspPpsfreqLo), (0x31, .rspPpsfreqHi)] ++
  [(0x32, .rspJitter), (0x33, .rspStabil), (0x34, .rspJitcnt), (0x35, .rspCalcnt), (0x36, .rspErrcnt),
    (0x37, .rspStbcnt), (0x38, .rspReftimeLo), (0x39, .rspReftimeHi), (0x3A, .rspRawoffsetLo), (0x3B, .rspRawoffsetHi),
    (0x3C, .rspRawfreqLo), (0x3D, .rspRawfreqHi), (0x3E, .rspRawadjLo), (0x3F, .rspRawadjHi), (0x40, .rspRawphaseLo),
    (0x41, .rspRawphaseHi), (0x42, .rspRawppsfreqLo), (0x43, .rspRawppsfreqHi)]

/-- The register at an offset inside a bank; none at a reserved offset (R92). -/
def regAt (offset : Nat) : Option PortReg := portMap.lookup offset

/-- The present value of a register; CMD reads as 0 (R93). -/
def Port.read (q : Port) : PortReg → Word
  | .cmd => 0#32
  | .stat => q.stat
  | .arg0 => q.arg0
  | .arg1 => q.arg1
  | .arg2 => q.arg2
  | .arg3 => q.arg3
  | .res0 => q.res0
  | .res1 => q.res1
  | .res2 => q.res2
  | .res3 => q.res3
  | .reqModes => q.req.modes
  | .reqOffsetLo => q.req.offsetLo
  | .reqOffsetHi => q.req.offsetHi
  | .reqFreqLo => q.req.freqLo
  | .reqFreqHi => q.req.freqHi
  | .reqMaxerror => q.req.maxerror
  | .reqEsterror => q.req.esterror
  | .reqStatus => q.req.status
  | .reqConstant => q.req.constant
  | .reqShift => q.req.shift
  | .rspOffsetLo => loWord q.rsp.offset
  | .rspOffsetHi => hiWord q.rsp.offset
  | .rspFreqLo => loWord q.rsp.freq
  | .rspFreqHi => hiWord q.rsp.freq
  | .rspMaxerror => q.rsp.maxerror
  | .rspEsterror => q.rsp.esterror
  | .rspStatus => q.rsp.status
  | .rspConstant => q.rsp.constant
  | .rspTai => q.rsp.tai
  | .rspState => q.rsp.state
  | .rspSecLo => loWord q.rsp.sec
  | .rspSecHi => hiWord q.rsp.sec
  | .rspNsec => q.rsp.nsec
  | .rspShift => q.rsp.shift
  | .rspShiftmax => q.rsp.shiftmax
  | .rspValid => q.rsp.valid
  | .rspPpsfreqLo => loWord q.rsp.ppsfreq
  | .rspPpsfreqHi => hiWord q.rsp.ppsfreq
  | .rspJitter => q.rsp.jitter
  | .rspStabil => q.rsp.stabil
  | .rspJitcnt => q.rsp.jitcnt
  | .rspCalcnt => q.rsp.calcnt
  | .rspErrcnt => q.rsp.errcnt
  | .rspStbcnt => q.rsp.stbcnt
  | .rspReftimeLo => loWord q.rsp.reftime
  | .rspReftimeHi => hiWord q.rsp.reftime
  | .rspRawoffsetLo => loWord q.rsp.rawoffset
  | .rspRawoffsetHi => hiWord q.rsp.rawoffset
  | .rspRawfreqLo => loWord q.rsp.rawfreq
  | .rspRawfreqHi => hiWord q.rsp.rawfreq
  | .rspRawadjLo => loWord q.rsp.rawadj
  | .rspRawadjHi => hiWord q.rsp.rawadj
  | .rspRawphaseLo => loWord q.rsp.rawphase
  | .rspRawphaseHi => hiWord q.rsp.rawphase
  | .rspRawppsfreqLo => loWord q.rsp.rawppsfreq
  | .rspRawppsfreqHi => hiWord q.rsp.rawppsfreq

/-- The write of a register: RW registers take all 32 bits, every other register ignores it; CMD executes and is not
written here (R94). -/
def Port.write (q : Port) (v : Word) : PortReg → Port
  | .cmd => q
  | .stat => q
  | .arg0 => { q with arg0 := v }
  | .arg1 => { q with arg1 := v }
  | .arg2 => { q with arg2 := v }
  | .arg3 => { q with arg3 := v }
  | .res0 => q
  | .res1 => q
  | .res2 => q
  | .res3 => q
  | .reqModes => { q with req := { q.req with modes := v } }
  | .reqOffsetLo => { q with req := { q.req with offsetLo := v } }
  | .reqOffsetHi => { q with req := { q.req with offsetHi := v } }
  | .reqFreqLo => { q with req := { q.req with freqLo := v } }
  | .reqFreqHi => { q with req := { q.req with freqHi := v } }
  | .reqMaxerror => { q with req := { q.req with maxerror := v } }
  | .reqEsterror => { q with req := { q.req with esterror := v } }
  | .reqStatus => { q with req := { q.req with status := v } }
  | .reqConstant => { q with req := { q.req with constant := v } }
  | .reqShift => { q with req := { q.req with shift := v } }
  | .rspOffsetLo => q
  | .rspOffsetHi => q
  | .rspFreqLo => q
  | .rspFreqHi => q
  | .rspMaxerror => q
  | .rspEsterror => q
  | .rspStatus => q
  | .rspConstant => q
  | .rspTai => q
  | .rspState => q
  | .rspSecLo => q
  | .rspSecHi => q
  | .rspNsec => q
  | .rspShift => q
  | .rspShiftmax => q
  | .rspValid => q
  | .rspPpsfreqLo => q
  | .rspPpsfreqHi => q
  | .rspJitter => q
  | .rspStabil => q
  | .rspJitcnt => q
  | .rspCalcnt => q
  | .rspErrcnt => q
  | .rspStbcnt => q
  | .rspReftimeLo => q
  | .rspReftimeHi => q
  | .rspRawoffsetLo => q
  | .rspRawoffsetHi => q
  | .rspRawfreqLo => q
  | .rspRawfreqHi => q
  | .rspRawadjLo => q
  | .rspRawadjHi => q
  | .rspRawphaseLo => q
  | .rspRawphaseHi => q
  | .rspRawppsfreqLo => q
  | .rspRawppsfreqHi => q

/-- The words of a bank (R91). -/
abbrev bankWords : Nat := 128

/-- The bank of a word index (R91). -/
def bankOf (addr : Nat) : Nat := addr / bankWords

/-- The offset of a word index inside its bank (R91). -/
def offsetOf (addr : Nat) : Nat := addr % bankWords

/-- `PortRead`: 0 for CMD and every reserved offset, no side effect (R93). -/
def portRead (s : State) (addr : Nat) : Word :=
  match regAt (offsetOf addr) with
  | some r => (s.cpu (bankOf addr)).port.read r
  | none => 0#32

/-- `PortWrite` of a word that is not CMD (R94). -/
def portWrite (s : State) (addr : Nat) (v : Word) : State :=
  match regAt (offsetOf addr) with
  | some r => s.modifyCpu (bankOf addr) fun u => { u with port := u.port.write v r }
  | none => s

/-- Whether a word index lies in one of the NCPU banks (R90, R91). -/
def inPortSpace (s : State) (addr : Nat) : Bool := decide (bankOf addr < s.cfg.ncpu)

/-- What the next access comes to, before any command runs. -/
inductive Presented where
  /-- The access, if any, is performed and runs no command. -/
  | done (s : State)
  /-- A word was written to CMD: it is to be executed in this state. -/
  | command (w : Word) (s : State)
  /-- No such word. -/
  | fault (r : Fault)
  /-- No access of this port. -/
  | refused (r : Refusal)
  deriving DecidableEq, Repr

/-- The state in which the command of an access runs: its bank and its inputs are presented (00_scope.md R16,
20_memory.md R91). -/
def State.withIssue (s : State) (a : Access) : State := { s with issue := ⟨bankOf a.addr, a.cyc, a.priv⟩ }

/-- One access of the port, in a state from whose list it is already taken: refused unless it is one whole aligned
word (R98), a fault outside the port space (log 4), else a read (its value is recorded, log 5), the write of CMD
or another write (R93, R94). -/
def presentAccess (s : State) (a : Access) : Presented :=
  if a.shape ≠ .word then .refused .notOneAlignedWord
  else if !inPortSpace s a.addr then .fault (.outsidePortSpace a.addr)
  else
    match a.kind with
    | .read => .done { s with reads := ⟨a.addr, portRead s a.addr⟩ :: s.reads }
    | .write v =>
      if regAt (offsetOf a.addr) = some .cmd then .command v (s.withIssue a) else .done (portWrite s a.addr v)

/-- The next access; the core does nothing of its own, so with none pending nothing changes (00_scope.md R17;
log 2). -/
def State.present (s : State) : Presented :=
  match s.pending with
  | [] => .done s
  | a :: rest => presentAccess { s with pending := rest } a

/-- The access that writes a command word to CMD of bank 0, the first word of the port space, with a cycle count of 0
and privilege (log 2). -/
def cmdWrite (w : Word) : Access := ⟨0, .write w, .word, 0#64, true⟩

end Sys2Proof.Machine
end

