-- ==== Sys2Proof/Machine/Execute.lean ====
section
/-! DEFINITION. What a word written to CMD does (30_encoding.md R120, R127, R128). -/

namespace Sys2Proof.Machine

/-- A word written to CMD: the command it encodes, or Illegal (30_encoding.md R120, R128). -/
def runWord (w : Word) (s : State) : Host.Outcome State Fault Refusal :=
  match decode w with
  | .command i => exec i s
  | .illegal _ => .next s.raiseIllegal

/-- The outcome of what the port presents: an access that runs no command is complete (20_memory.md R104). -/
def Presented.outcome : Presented → Host.Outcome State Fault Refusal
  | .done t => .next t
  | .command w t => runWord w t
  | .fault r => .fault r
  | .refused r => .refused r

end Sys2Proof.Machine
end

