-- ==== Sys2Proof/Machine/Step.lean ====
section
/-! DEFINITION. One step of the machine: the next access of the port, and the command it carries if it writes CMD
(00_scope.md R17, 20_memory.md R103, R104). -/

namespace Sys2Proof.Machine

/-- One step: the next pending access, whole (20_memory.md R104). -/
def step (s : State) : Host.Outcome State Fault Refusal := s.present.outcome

/-- The low `nbits` bits of w written to CMD of bank 0 by the next access; every command is one 32-bit word (R120).
Nothing else changes; this stands for the host's write of a command (log 2). -/
def State.withFetchWord (s : State) (nbits w : Nat) : State :=
  { s with pending := cmdWrite (BitVec.ofNat 32 (w % 2 ^ nbits)) :: s.pending }

end Sys2Proof.Machine
end

