-- ==== Sys2Proof/Safety.lean ====
section
/-! DEFINITION. The words in which statements speak of the machine: the invariant of 10_state.md R87 and what a
command leaves as it was (10_state.md R86). -/

namespace Sys2Proof.Machine

/-- A signed timescale value of magnitude at most m in its own unit. -/
def FxWithin (v : Fx) (m : Int) : Prop := -(m * fxOne) ≤ v.toInt ∧ v.toInt ≤ m * fxOne

/-- The clock part of the invariant (10_state.md R44, R45, R47, R48, R87). -/
structure ClockInv (c : Params) (k : Clock) : Prop where
  /-- TC in [0, MAXTC]. -/
  tc : k.tc ≤ c.maxtc
  /-- STATE in 0 to 4. -/
  state : k.state.toNat ≤ 4
  /-- STATUS.CLOCKERR = 0. -/
  clockerr : k.has .clockerr = false
  /-- |OFFSET| <= MAXPHASE. -/
  offset : FxWithin k.offset maxPhase
  /-- |FREQ| <= MAXFREQ. -/
  freq : FxWithin k.freq maxFreq
  /-- The integral part of PHASE is in [0, HZ - 1]. -/
  phase : 0 ≤ fxGetInt k.phase ∧ fxGetInt k.phase < c.hz

/-- A fractional second of the median window (10_state.md R57). -/
def FractionOk (v : BitVec 32) : Prop := -500000000 ≤ v.toInt ∧ v.toInt ≤ 499999999

/-- The PPS part of the invariant (10_state.md R57 to R60, R66, R87). -/
structure PpsInv (v : Pps) : Prop where
  /-- PPS_SHIFT in [2, 15]. -/
  shift : 2 ≤ v.shift ∧ v.shift ≤ 15
  /-- PPS_SHIFTMAX in [2, 15]. -/
  shiftmax : 2 ≤ v.shiftmax ∧ v.shiftmax ≤ 15
  /-- PPS_INTCNT in [-4, 4]. -/
  intcnt : -4 ≤ v.intcnt ∧ v.intcnt ≤ 4
  /-- |PPS_FREQ| <= MAXFREQ. -/
  freq : FxWithin v.freq maxFreq
  /-- PPS_TFN[0]. -/
  tfn0 : FractionOk v.tfn0
  /-- PPS_TFN[1]. -/
  tfn1 : FractionOk v.tfn1
  /-- PPS_TFN[2]. -/
  tfn2 : FractionOk v.tfn2
  /-- PPS_JITTER is never negative and never above the largest span (R60, 44_pps.md R319). -/
  jitter : 0 ≤ v.jitter.toInt ∧ v.jitter.toInt ≤ 999999999

/-- The per-processor part of the invariant (10_state.md R71, R72, R84, R87). -/
structure CpuInv (c : Params) (u : Cpu) : Prop where
  /-- INITD[p] = 1 implies NUM[p] >= 1. -/
  num : u.interp.initd = true → 1 ≤ u.interp.num.toInt
  /-- INITD[p] = 1 implies DEN[p] >= 1. -/
  den : u.interp.initd = true → 1 ≤ u.interp.den.toNat
  /-- SCNT[p] has CW bits. -/
  scnt : u.interp.scnt.toNat < 2 ^ c.cw
  /-- STAT bits 31:8 and bit 3 are 0. -/
  stat : u.port.stat &&& 0xFFFFFF08#32 = 0#32

/-- The invariant of 10_state.md R87, with the widths and ranges of R57, R60, R71, R74 and R84. -/
structure Inv (s : State) : Prop where
  /-- The parameters are admitted (00_scope.md R12, R13). -/
  cfg : s.cfg.Wf
  /-- There are NCPU banks. -/
  ncpu : s.cpus.length = s.cfg.ncpu
  /-- The clock state. -/
  clock : ClockInv s.cfg s.clock
  /-- The PPS filter state. -/
  pps : PpsInv s.pps
  /-- MCNT has CW bits. -/
  mcnt : s.mcnt.toNat < 2 ^ s.cfg.cw
  /-- LAST_NSEC in [0, 999 999 999]. -/
  lastNsec : 0 ≤ s.lastNsec.toInt ∧ s.lastNsec.toInt ≤ 999999999
  /-- Every processor. -/
  cpus : ∀ u ∈ s.cpus, CpuInv s.cfg u

/-- The bank of the present command exists. -/
def Issued (s : State) : Prop := s.issue.bank < s.cpus.length

/-- What drives the machine is as it was: parameters, issue, schedule, observations. -/
structure SameDrive (s t : State) : Prop where
  /-- Parameters. -/
  cfg : t.cfg = s.cfg
  /-- The command's bank and inputs. -/
  issue : t.issue = s.issue
  /-- The accesses still to come. -/
  pending : t.pending = s.pending
  /-- What the reads returned. -/
  reads : t.reads = s.reads
  /-- The number of banks. -/
  banks : t.cpus.length = s.cpus.length

/-- Every word of every bank reads as before, but for the listed offsets of the issuing bank. -/
def PortsKept (s t : State) (written : List Nat) : Prop :=
  ∀ addr, (bankOf addr = s.issue.bank → offsetOf addr ∉ written) → portRead t addr = portRead s addr

/-- The interpolation state of every processor is as it was. -/
def InterpsKept (s t : State) : Prop := ∀ p, (t.cpu p).interp = (s.cpu p).interp

/-- The shared interpolator registers LAST are as they were. -/
def LastKept (s t : State) : Prop := t.lastSec = s.lastSec ∧ t.lastNsec = s.lastNsec

/-- A command changed nothing but the T registers, the clock and PPS state, MCNT, and the listed words of its bank. -/
structure BankFrame (s t : State) (written : List Nat) : Prop where
  /-- Parameters, schedule, observations. -/
  drive : SameDrive s t
  /-- Port words. -/
  ports : PortsKept s t written
  /-- Interpolation state. -/
  interps : InterpsKept s t
  /-- LAST. -/
  last : LastKept s t

/-- A command changed nothing but the listed words of its bank. -/
structure PortOnly (s t : State) (written : List Nat) : Prop where
  /-- The bank frame. -/
  bank : BankFrame s t written
  /-- T0 to T7. -/
  regs : t.t = s.t
  /-- The clock state. -/
  clock : t.clock = s.clock
  /-- The PPS filter state. -/
  pps : t.pps = s.pps
  /-- MCNT. -/
  mcnt : t.mcnt = s.mcnt
  /-- The free-value counter. -/
  draws : t.draws = s.draws

/-- A command changed nothing but one T register and the STAT of its bank. -/
structure TOnly (s t : State) (d : BitVec 4) : Prop where
  /-- The bank frame: STAT alone. -/
  bank : BankFrame s t [0x01]
  /-- Every other T register. -/
  others : ∀ r, r ≠ d → t.readT r = s.readT r
  /-- The clock state. -/
  clock : t.clock = s.clock
  /-- The PPS filter state. -/
  pps : t.pps = s.pps
  /-- MCNT. -/
  mcnt : t.mcnt = s.mcnt
  /-- The free-value counter. -/
  draws : t.draws = s.draws

/-- The STAT of the issuing bank is the word of 30_encoding.md R129 on the state the command left. -/
def StatIs (t : State) (f : CmdFlags) : Prop := t.port.stat = statWord t.clock f

/-- The offsets of the words ADJT writes: STAT and the RSP block 0x20 to 0x43 (20_memory.md R92). -/
def adjtWords : List Nat := 0x01 :: List.range' 0x20 36

/-- A request that ADJT does not deny: it selects nothing, or the caller has privilege (41_control.md R192). -/
def AdjtPermitted (s : State) : Prop := modesOf s.port.req = 0#16 ∨ s.issue.priv = true

/-- What each readable word of a bank holds, offset by offset as 20_memory.md R92 names them; a 64-bit response is its low
and its high half (R97). -/
def readableWords (q : Port) : List (Nat × Word) :=
  [(0x01, q.stat), (0x02, q.arg0), (0x03, q.arg1), (0x04, q.arg2), (0x05, q.arg3), (0x06, q.res0), (0x07, q.res1),
   (0x08, q.res2), (0x09, q.res3), (0x10, q.req.modes), (0x11, q.req.offsetLo), (0x12, q.req.offsetHi),
   (0x13, q.req.freqLo), (0x14, q.req.freqHi), (0x15, q.req.maxerror), (0x16, q.req.esterror), (0x17, q.req.status),
   (0x18, q.req.constant), (0x19, q.req.shift), (0x20, q.rsp.offset.extractLsb' 0 32),
   (0x21, q.rsp.offset.extractLsb' 32 32), (0x22, q.rsp.freq.extractLsb' 0 32),
   (0x23, q.rsp.freq.extractLsb' 32 32), (0x24, q.rsp.maxerror), (0x25, q.rsp.esterror), (0x26, q.rsp.status),
   (0x27, q.rsp.constant), (0x28, q.rsp.tai), (0x29, q.rsp.state), (0x2A, q.rsp.sec.extractLsb' 0 32),
   (0x2B, q.rsp.sec.extractLsb' 32 32), (0x2C, q.rsp.nsec), (0x2D, q.rsp.shift), (0x2E, q.rsp.shiftmax),
   (0x2F, q.rsp.valid), (0x30, q.rsp.ppsfreq.extractLsb' 0 32), (0x31, q.rsp.ppsfreq.extractLsb' 32 32),
   (0x32, q.rsp.jitter), (0x33, q.rsp.stabil), (0x34, q.rsp.jitcnt), (0x35, q.rsp.calcnt), (0x36, q.rsp.errcnt),
   (0x37, q.rsp.stbcnt), (0x38, q.rsp.reftime.extractLsb' 0 32), (0x39, q.rsp.reftime.extractLsb' 32 32),
   (0x3A, q.rsp.rawoffset.extractLsb' 0 32), (0x3B, q.rsp.rawoffset.extractLsb' 32 32),
   (0x3C, q.rsp.rawfreq.extractLsb' 0 32), (0x3D, q.rsp.rawfreq.extractLsb' 32 32),
   (0x3E, q.rsp.rawadj.extractLsb' 0 32), (0x3F, q.rsp.rawadj.extractLsb' 32 32),
   (0x40, q.rsp.rawphase.extractLsb' 0 32), (0x41, q.rsp.rawphase.extractLsb' 32 32),
   (0x42, q.rsp.rawppsfreq.extractLsb' 0 32), (0x43, q.rsp.rawppsfreq.extractLsb' 32 32)]

/-- What a write of v does at each writable word of a bank, offset by offset as 20_memory.md R92 names them (R94). -/
def writableWords (v : Word) : List (Nat × (Port → Port)) :=
  [(0x02, fun q => { q with arg0 := v }),
   (0x03, fun q => { q with arg1 := v }),
   (0x04, fun q => { q with arg2 := v }),
   (0x05, fun q => { q with arg3 := v }),
   (0x10, fun q => { q with req := { q.req with modes := v } }),
   (0x11, fun q => { q with req := { q.req with offsetLo := v } }),
   (0x12, fun q => { q with req := { q.req with offsetHi := v } }),
   (0x13, fun q => { q with req := { q.req with freqLo := v } }),
   (0x14, fun q => { q with req := { q.req with freqHi := v } }),
   (0x15, fun q => { q with req := { q.req with maxerror := v } }),
   (0x16, fun q => { q with req := { q.req with esterror := v } }),
   (0x17, fun q => { q with req := { q.req with status := v } }),
   (0x18, fun q => { q with req := { q.req with constant := v } }),
   (0x19, fun q => { q with req := { q.req with shift := v } })]

/-- A command repeated n times. -/
def repeatExec (i : Instr) : Nat → State → Host.Outcome State Fault Refusal
  | 0, s => .next s
  | n + 1, s =>
    match repeatExec i n s with
    | .next t => exec i t
    | .fault r => .fault r
    | .refused r => .refused r

/-- The edge that the next HPPS on the issuing bank records, from the ARG registers: ARG1:ARG0 seconds, ARG2 nanoseconds
(44_pps.md R301, R302). -/
def State.edge (s : State) : Edge :=
  let sec : BitVec 64 := s.port.arg1 ++ s.port.arg0
  let n := max 0 (min s.port.arg2.toInt 999999999)
  if n < 500000000 then ⟨sec, n⟩ else ⟨sec + 1#64, n - 1000000000⟩

/-- The PPS filter state an HPPS works from: on the first edge the averaging interval and the counter reference start
at that edge (44_pps.md R303). -/
def State.ppsStart (s : State) : Pps :=
  if s.pps.init then s.pps
  else { s.pps with init := true, lastsec := s.edge.sec, lastcount := s.port.arg3, fcount := 0#64 }

/-- The sum of corrected counter deltas once the edge is recorded, exact, with both corrections of 44_pps.md R311 written
out: one second where the delta is beyond ±500 000 000, then one tick where what is left is beyond ±floor(TICK_NS / 2)
(R310, R311). -/
def State.ppsSum (s : State) : Int :=
  let d := s.port.arg3.toInt - s.ppsStart.lastcount.toInt
  let d1 := if 500000000 < d then d - 1000000000 else if d < -500000000 then d + 1000000000 else d
  let tick : Int := (1000000000 / s.cfg.hz : Nat)
  let half := tick / 2
  s.ppsStart.fcount.toInt + if half < d1 then d1 - tick else if d1 < -half then d1 + tick else d1

/-- The edge is not dropped as a duplicate (44_pps.md R305). -/
def State.edgeIsNew (s : State) : Prop := s.pps.init = false ∨ s.edge.sec ≠ s.pps.tfsec

/-- The edge passes the range gate: the step of the fraction is within ±500 000 ns (44_pps.md R306). -/
def State.edgePasses (s : State) : Prop :=
  -500000 ≤ s.edge.nsec - s.pps.tfn0.toInt ∧ s.edge.nsec - s.pps.tfn0.toInt ≤ 500000

/-- The seconds since the averaging interval began (44_pps.md R321). -/
def State.ppsElapsed (s : State) : Int := s.edge.sec.toInt - s.ppsStart.lastsec.toInt

/-- The median of the window once the edge is in it (44_pps.md R315). -/
def State.ppsMedian (s : State) : Int := median3 s.edge.nsec s.pps.tfn0.toInt s.pps.tfn1.toInt

/-- The span of the window once the edge is in it (44_pps.md R315). -/
def State.ppsSpan (s : State) : Int := span3 s.edge.nsec s.pps.tfn0.toInt s.pps.tfn1.toInt

/-- Popcorn rejection of the edge (44_pps.md R317). -/
def State.ppsPopcorn (s : State) : Prop := s.pps.jitter.toInt * 2 ^ s.cfg.popcorn < s.ppsSpan

/-- The filter state once an edge is recorded, the sum of the deltas apart (44_pps.md R304, R307, R310). -/
def State.ppsRecorded (s : State) : Pps :=
  { s.ppsStart with
    tfn0 := BitVec.ofInt 32 s.edge.nsec
    tfn1 := s.pps.tfn0
    tfn2 := s.pps.tfn1
    tfsec := s.edge.sec
    lastcount := s.port.arg3
    valid := BitVec.ofNat 32 s.cfg.ppsValidInit }

/-- An integer that a signed 32-bit register holds. -/
def FitsS32 (z : Int) : Prop := -2147483648 ≤ z ∧ z ≤ 2147483647

/-- An integer that a signed 64-bit register holds. -/
def FitsS64 (z : Int) : Prop := -9223372036854775808 ≤ z ∧ z ≤ 9223372036854775807

/-- The decayed jitter average after the edge, exact (44_pps.md R319). -/
def State.ppsJitter (s : State) : Int :=
  s.pps.jitter.toInt + (s.ppsSpan - s.pps.jitter.toInt) / 2 ^ s.cfg.ppsAvg

/-- HPPS changed nothing but the clock and PPS state, the free-value counter and the STAT of its bank. -/
structure PpsFrame (s t : State) : Prop where
  /-- The bank frame: STAT alone. -/
  bank : BankFrame s t [0x01]
  /-- T0 to T7. -/
  regs : t.t = s.t
  /-- MCNT. -/
  mcnt : t.mcnt = s.mcnt
  /-- One draw of free values per HPPS (log 9). -/
  draws : t.draws = s.draws + 1
  /-- STAT. -/
  stat : StatIs t flagsNone

/-- What an HPPS whose edge passed the gate does before the interval test, whatever follows (44_pps.md R304, R317 to
R319): the phase estimate or its rejection, and the jitter average. -/
structure PpsFiltered (s t : State) : Prop where
  /-- Rejected and counted, or not (R317). -/
  jitcnt : (s.ppsPopcorn → t.pps.jitcnt = s.pps.jitcnt + 1#32) ∧ (¬s.ppsPopcorn → t.pps.jitcnt = s.pps.jitcnt)
  /-- PPSJITTER says whether (R317). -/
  flag : t.clock.has .ppsjitter = true ↔ s.ppsPopcorn
  /-- The negated median is loaded where the edge is not rejected and time discipline is enabled (R318). -/
  loaded : ¬s.ppsPopcorn → s.clock.has .ppstime = true → t.clock.offset = fxLoadInt (-s.ppsMedian)
  /-- Else OFFSET is kept (R317, R318). -/
  kept : s.ppsPopcorn ∨ s.clock.has .ppstime = false → t.clock.offset = s.clock.offset
  /-- The jitter average (R319). -/
  jitter : FitsS32 s.ppsJitter → t.pps.jitter.toInt = s.ppsJitter

/-- The FX commands (40_fixedpoint.md section 4). -/
def isFx : Instr → Bool
  | .fxadd _ _ => true
  | .fxsub _ _ => true
  | .fxneg _ => true
  | .fxrsh _ _ => true
  | .fxmul _ => true
  | .fxlint _ => true
  | .fxgint _ => true
  | .fxclr _ => true
  | .fxld _ => true
  | .fxst _ => true
  | .adjt => false
  | .gett => false
  | .tick => false
  | .secovf => false
  | .sett => false
  | .hupd => false
  | .hpps => false
  | .calib => false
  | .now => false

end Sys2Proof.Machine
end

