-- ==== Sys2Proof/Certificates/Slice0/Obligations.lean ====
section
/-! DEFINITION. The statements for the provers, from the numbered rules of spec/. -/

open Sys2Proof Sys2Proof.Machine

/-! ### Encoding -/

/-- Decoding the encoding of a legal command gives it back, every operand at every value the encoding admits
(30_encoding.md R121, R122, R125). -/
def Obligations.DecodeOfEncode : Prop :=
  ∀ i : Instr, i.WellFormed = true → decode (encode i) = .command i

/-- Every word that decodes is the encoding of the command it decodes to, and that command is legal. -/
def Obligations.EncodeOfDecode : Prop :=
  ∀ (w : Word) (i : Instr), decode w = .command i → i.WellFormed = true ∧ encode i = w

/-- A word is a command exactly when it is an instance of a row of the opcode table, and no word is an instance of
two rows (R122, R127). -/
def Obligations.LegalWordsAreTableRows : Prop :=
  (∀ w : Word, (∃ i, decode w = .command i) ↔ ∃ row ∈ opcodeTable, w &&& row.mask = row.pattern) ∧
  opcodeTable.Pairwise fun a b => ∀ w : Word, ¬(w &&& a.mask = a.pattern ∧ w &&& b.mask = b.pattern)

/-- Words written out in 40_fixedpoint.md part 4, 30_encoding.md R132 and 95_test_vectors.md 2.3: eleven decode to the
command the spec gives, three are illegal. The names of the three reasons are the model's choice (log 11). -/
def Obligations.SpecWordsDecode : Prop :=
  decode 0x01120000#32 = .command (.fxadd 1#4 2#4) ∧ decode 0x04000001#32 = .command (.fxrsh 0#4 1#6) ∧
  decode 0x0470003F#32 = .command (.fxrsh 7#4 63#6) ∧ decode 0x05200000#32 = .command (.fxmul 2#4) ∧
  decode 0x07070000#32 = .command (.fxgint 7#4) ∧ decode 0x0A010000#32 = .command (.fxst 1#4) ∧
  decode 0x10000000#32 = .command .adjt ∧ decode 0x21000000#32 = .command .secovf ∧
  decode 0x30000000#32 = .command .hupd ∧ decode 0x40000000#32 = .command .hpps ∧
  decode 0x51000000#32 = .command .now ∧ decode 0x00000000#32 = .illegal .unassignedOpcode ∧
  decode 0x01080000#32 = .illegal .registerOutOfRange ∧ decode 0x20100000#32 = .illegal .unusedFieldNotZero

/-- A command with a register field of 8 to 15 is no command: its word is illegal, and its meaning is `raise Illegal`
(the model's choice for the meaning, log 12). -/
def Obligations.IllFormedCommandsAreIllegal : Prop :=
  ∀ (i : Instr) (s : State), i.WellFormed = false →
    (∃ why, decode (encode i) = .illegal why) ∧ exec i s = .next s.raiseIllegal

/-! ### Steps of the port -/

/-- A step whose access writes a word to CMD of an existing bank runs the command the word decodes to, in the state
with that access taken and its bank and inputs presented. -/
def Obligations.StepRunsDecodedCommand : Prop :=
  ∀ (s : State) (a : Access) (rest : List Access) (w : Word) (i : Instr),
    s.pending = a :: rest → a.shape = .word → a.addr < 128 * s.cfg.ncpu → a.addr % 128 = 0 →
    a.kind = .write w → decode w = .command i →
    step s = exec i { s with pending := rest, issue := ⟨a.addr / 128, a.cyc, a.priv⟩ }

/-- A step whose access writes an illegal word to CMD changes nothing but the STAT of the issuing bank, which shows
ILLEGAL (R128). -/
def Obligations.IllegalWordOnlySetsStat : Prop :=
  ∀ (s : State) (a : Access) (rest : List Access) (w : Word) (why : Illegal),
    s.pending = a :: rest → a.shape = .word → a.addr < 128 * s.cfg.ncpu → a.addr % 128 = 0 →
    a.kind = .write w → decode w = .illegal why → s.cpus.length = s.cfg.ncpu →
    ∃ t, step s = .next t ∧
      PortOnly { s with pending := rest, issue := ⟨a.addr / 128, a.cyc, a.priv⟩ } t [0x01] ∧
      StatIs t { flagsNone with illegal := true } ∧ t.port.stat.getLsbD 5 = true

/-- A read returns the present value of the register that R92 names at the offset (`readableWords`), 0 at CMD and at every
reserved offset, and changes no state of the core (R93). -/
def Obligations.PortReadReturnsRegister : Prop :=
  ∀ (s : State) (a : Access) (rest : List Access),
    s.pending = a :: rest → a.shape = .word → a.addr < 128 * s.cfg.ncpu → a.kind = .read →
    ∃ v, step s = .next { s with pending := rest, reads := ⟨a.addr, v⟩ :: s.reads } ∧
      (∀ word ∈ readableWords (s.cpu (a.addr / 128)).port, a.addr % 128 = word.1 → v = word.2) ∧
      (a.addr % 128 = 0x00 ∨ 0x0A ≤ a.addr % 128 ∧ a.addr % 128 ≤ 0x0F ∨ 0x1A ≤ a.addr % 128 ∧ a.addr % 128 ≤ 0x1F ∨
        0x44 ≤ a.addr % 128 → v = 0#32)

/-- A write of an ARG or REQ word stores all 32 bits in the register that R92 names at the offset (`writableWords`) and
changes nothing else; a write of any other word but CMD changes nothing (R94). -/
def Obligations.PortWriteStoresOrIsIgnored : Prop :=
  ∀ (s : State) (a : Access) (rest : List Access) (v : Word),
    s.pending = a :: rest → a.shape = .word → a.addr < 128 * s.cfg.ncpu → s.cpus.length = s.cfg.ncpu →
    a.kind = .write v → a.addr % 128 ≠ 0 →
    ∃ t, step s = .next t ∧
      (∀ addr, addr ≠ a.addr → portRead t addr = portRead s addr) ∧
      t = { s with pending := rest, cpus := t.cpus } ∧
      t.cpus.length = s.cpus.length ∧ (∀ p, (t.cpu p).interp = (s.cpu p).interp) ∧
      (2 ≤ a.addr % 128 ∧ a.addr % 128 ≤ 5 ∨ 0x10 ≤ a.addr % 128 ∧ a.addr % 128 ≤ 0x19 → portRead t a.addr = v) ∧
      (∀ word ∈ writableWords v, a.addr % 128 = word.1 →
        (t.cpu (a.addr / 128)).port = word.2 (s.cpu (a.addr / 128)).port) ∧
      (¬(2 ≤ a.addr % 128 ∧ a.addr % 128 ≤ 5 ∨ 0x10 ≤ a.addr % 128 ∧ a.addr % 128 ≤ 0x19) → t.cpus = s.cpus)

/-- An access that is not one whole aligned word is refused (R98); a whole word at an index of no bank faults
(log 4). -/
def Obligations.AccessesOutsideThePort : Prop :=
  ∀ (s : State) (a : Access) (rest : List Access), s.pending = a :: rest →
    (a.shape ≠ .word → step s = .refused .notOneAlignedWord) ∧
    (a.shape = .word → 128 * s.cfg.ncpu ≤ a.addr → step s = .fault (.outsidePortSpace a.addr))

/-- The core never traps and is never stuck: every command gives a next state in every state, and so does every admitted
access of an existing bank (60_exceptions.md R392, 20_memory.md R111). With no access pending nothing changes: the core
does nothing of its own (00_scope.md R17; that an idle step keeps the state is the model's choice, log 2). -/
def Obligations.EveryAccessCompletes : Prop :=
  (∀ (i : Instr) (s : State), ∃ t, exec i s = .next t) ∧
  (∀ (s : State) (a : Access) (rest : List Access),
    s.pending = a :: rest → a.shape = .word → a.addr < 128 * s.cfg.ncpu → ∃ t, step s = .next t) ∧
  ∀ s : State, s.pending = [] → step s = .next s

/-! ### The STAT write and the classification -/

/-- A word run on a bank, legal or not, ends with the STAT of that bank as R129 gives it, on the state the command left,
and touches nothing of any other bank. -/
def Obligations.EveryCommandEndsWithStat : Prop :=
  ∀ (w : Word) (s : State), Issued s →
    ∃ t, runWord w s = .next t ∧
      t.port.stat.extractLsb' 8 24 = 0#24 ∧
      t.port.stat.getLsbD 7 = decide (1000000000 ≤ t.clock.nsec.toInt) ∧
      (t.port.stat.getLsbD 6 = true ↔
        decode w = .command .now ∧ nowCandidate s ≤ nowLast s ∧ nowLast s - nowCandidate s ≤ 1000000000) ∧
      (t.port.stat.getLsbD 5 = true ↔ ∃ why, decode w = .illegal why) ∧
      (t.port.stat.getLsbD 4 = true ↔
        (decode w = .command .adjt ∧ s.port.req.modes.setWidth 16 ≠ 0#16 ∨ decode w = .command .sett) ∧
          s.issue.priv = false) ∧
      t.port.stat.getLsbD 3 = false ∧ t.port.stat.extractLsb' 0 3 = syncClass t.clock ∧
      ∀ p, p ≠ s.issue.bank → t.cpu p = s.cpu p

/-- The classification, by the bits of STATUS (R210). -/
def Obligations.ClassificationFollowsFlags : Prop :=
  ∀ k : Clock,
    let b := fun n => k.status.getLsbD n
    let error := (b 6 || b 12) || ((b 1 || b 2) && !b 8) || (b 2 && b 9) || (b 1 && (b 10 || b 11))
    syncClass k = if error then 5#3 else k.state

/-! ### Fixed-point arithmetic -/

/-- FXADD (R170): T[d] takes the sum modulo 2^64, and nothing else but STAT changes. -/
def Obligations.FxaddResult : Prop :=
  ∀ (s : State) (d r : BitVec 4), d.toNat < 8 → r.toNat < 8 → Issued s →
    encode (.fxadd d r) = BitVec.ofNat 32 (0x01000000 + d.toNat * 0x100000 + r.toNat * 0x10000) ∧
    ∃ t, exec (.fxadd d r) s = .next t ∧
      t.readT d = BitVec.ofNat 64 ((s.readT d).toNat + (s.readT r).toNat) ∧ TOnly s t d ∧ StatIs t flagsNone

/-- FXSUB (R171): T[d] takes the difference modulo 2^64. -/
def Obligations.FxsubResult : Prop :=
  ∀ (s : State) (d r : BitVec 4), d.toNat < 8 → r.toNat < 8 → Issued s →
    encode (.fxsub d r) = BitVec.ofNat 32 (0x02000000 + d.toNat * 0x100000 + r.toNat * 0x10000) ∧
    ∃ t, exec (.fxsub d r) s = .next t ∧
      t.readT d = BitVec.ofInt 64 ((s.readT d).toNat - (s.readT r).toNat) ∧ TOnly s t d ∧ StatIs t flagsNone

/-- FXNEG (R172): T[d] takes its negation modulo 2^64. -/
def Obligations.FxnegResult : Prop :=
  ∀ (s : State) (d : BitVec 4), d.toNat < 8 → Issued s →
    encode (.fxneg d) = BitVec.ofNat 32 (0x03000000 + d.toNat * 0x100000) ∧
    ∃ t, exec (.fxneg d) s = .next t ∧
      t.readT d = BitVec.ofInt 64 (0 - (s.readT d).toNat) ∧ TOnly s t d ∧ StatIs t flagsNone

/-- FXRSH (R173): T[d] takes floor(S64(T[d]) / 2^n). -/
def Obligations.FxrshResult : Prop :=
  ∀ (s : State) (d : BitVec 4) (n : BitVec 6), d.toNat < 8 → Issued s →
    encode (.fxrsh d n) = BitVec.ofNat 32 (0x04000000 + d.toNat * 0x100000 + n.toNat) ∧
    ∃ t, exec (.fxrsh d n) s = .next t ∧
      t.readT d = BitVec.ofInt 64 ((s.readT d).toInt / 2 ^ n.toNat) ∧ TOnly s t d ∧ StatIs t flagsNone

/-- FXMUL (R174): T[d] takes the low 64 bits of its product with ARG0 read as unsigned. -/
def Obligations.FxmulResult : Prop :=
  ∀ (s : State) (d : BitVec 4), d.toNat < 8 → Issued s →
    encode (.fxmul d) = BitVec.ofNat 32 (0x05000000 + d.toNat * 0x100000) ∧
    ∃ t, exec (.fxmul d) s = .next t ∧
      t.readT d = BitVec.ofNat 64 ((s.readT d).toNat * s.port.arg0.toNat) ∧ TOnly s t d ∧ StatIs t flagsNone

/-- FXLINT (R175): T[d] takes S32(ARG0) * 2^32. -/
def Obligations.FxlintResult : Prop :=
  ∀ (s : State) (d : BitVec 4), d.toNat < 8 → Issued s →
    encode (.fxlint d) = BitVec.ofNat 32 (0x06000000 + d.toNat * 0x100000) ∧
    ∃ t, exec (.fxlint d) s = .next t ∧
      t.readT d = BitVec.ofInt 64 (s.port.arg0.toInt * 4294967296) ∧ TOnly s t d ∧ StatIs t flagsNone

/-- FXGINT (R176): RES0 takes the integral part, rounded toward minus infinity; nothing else but STAT changes. -/
def Obligations.FxgintResult : Prop :=
  ∀ (s : State) (r : BitVec 4), r.toNat < 8 → Issued s →
    encode (.fxgint r) = BitVec.ofNat 32 (0x07000000 + r.toNat * 0x10000) ∧
    ∃ t, exec (.fxgint r) s = .next t ∧
      t.port.res0 = BitVec.ofInt 32 ((s.readT r).toInt / 4294967296) ∧
      PortOnly s t [0x01, 0x06] ∧ StatIs t flagsNone

/-- FXCLR (R177): T[d] takes 0. -/
def Obligations.FxclrResult : Prop :=
  ∀ (s : State) (d : BitVec 4), d.toNat < 8 → Issued s →
    encode (.fxclr d) = BitVec.ofNat 32 (0x08000000 + d.toNat * 0x100000) ∧
    ∃ t, exec (.fxclr d) s = .next t ∧ t.readT d = 0#64 ∧ TOnly s t d ∧ StatIs t flagsNone

/-- FXLD (R178): ARG1 becomes the integral limb, ARG0 the fraction limb. -/
def Obligations.FxldResult : Prop :=
  ∀ (s : State) (d : BitVec 4), d.toNat < 8 → Issued s →
    encode (.fxld d) = BitVec.ofNat 32 (0x09000000 + d.toNat * 0x100000) ∧
    ∃ t, exec (.fxld d) s = .next t ∧
      (t.readT d).toNat = s.port.arg1.toNat * 4294967296 + s.port.arg0.toNat ∧ TOnly s t d ∧ StatIs t flagsNone

/-- FXST (R179): RES0 takes the low limb and RES1 the high one; nothing else but STAT changes. -/
def Obligations.FxstResult : Prop :=
  ∀ (s : State) (r : BitVec 4), r.toNat < 8 → Issued s →
    encode (.fxst r) = BitVec.ofNat 32 (0x0A000000 + r.toNat * 0x10000) ∧
    ∃ t, exec (.fxst r) s = .next t ∧
      t.port.res0.toNat = (s.readT r).toNat % 4294967296 ∧ t.port.res1.toNat = (s.readT r).toNat / 4294967296 ∧
      PortOnly s t [0x01, 0x06, 0x07] ∧ StatIs t flagsNone

/-- The split 32+32 backend and the 64-bit backend give the same 64 bits for every input of every function (R163). -/
def Obligations.SplitBackendAgrees : Prop :=
  (∀ a b : Fx, toLimbs (fxAdd a b) = limbAdd (toLimbs a) (toLimbs b)) ∧
  (∀ a b : Fx, toLimbs (fxSub a b) = limbSub (toLimbs a) (toLimbs b)) ∧
  (∀ a : Fx, toLimbs (fxNeg a) = limbNeg (toLimbs a)) ∧
  (∀ (a : Fx) (n : Nat), n ≤ 63 → toLimbs (fxRsh a n) = limbRsh (toLimbs a) n) ∧
  (∀ (a : Fx) (k : Nat), k < 2 ^ 32 → toLimbs (fxMul a k) = limbMul (toLimbs a) k) ∧
  (∀ (a : Fx) (k : Nat), k < 2 ^ 64 → toLimbs (fxMul a k) = limbMulWide (toLimbs a) k) ∧
  (∀ i : Int, toLimbs (fxLoadInt i) = limbLoadInt i) ∧
  (∀ a : Fx, fxGetInt a = limbGetInt (toLimbs a)) ∧
  toLimbs fxClr = limbClr

/-- Get-integer is floor division by 2^32 of the signed value, and load then get returns s32 of the integer (R160). -/
def Obligations.GetIntegerIsFloor : Prop :=
  (∀ a : Fx, fxGetInt a = a.toInt / 4294967296 ∧ fxGetInt a = (a.extractLsb' 32 32).toInt) ∧
  ∀ i : Int, fxGetInt (fxLoadInt i) = (BitVec.ofInt 32 i).toInt

/-- The FX commands and the discipline do not meet: no FX command changes clock or PPS state, MCNT, LAST or any
interpolation state, and no other command changes T0 to T7: R180, which the spec marks as derived from R31. -/
def Obligations.FxAndDisciplineDoNotMeet : Prop :=
  ∀ (i : Instr) (s t : State), exec i s = .next t →
    (isFx i = true → t.clock = s.clock ∧ t.pps = s.pps ∧ t.mcnt = s.mcnt ∧ LastKept s t ∧ InterpsKept s t) ∧
    (isFx i = false → t.t = s.t)

/-! ### Control interface -/

/-- ADJT without privilege: denied when it selects a field, with no change but STAT; with no field selected, or with
privilege, not denied (R192). -/
def Obligations.AdjtPrivilege : Prop :=
  ∀ s : State, Issued s →
    ∃ t, exec .adjt s = .next t ∧
      (s.port.req.modes.setWidth 16 ≠ 0#16 → s.issue.priv = false →
        PortOnly s t [0x01] ∧ StatIs t { flagsNone with denied := true }) ∧
      (s.port.req.modes.setWidth 16 = 0#16 →
        t.t = s.t ∧ t.clock = s.clock ∧ t.pps = s.pps ∧ t.mcnt = s.mcnt ∧ BankFrame s t adjtWords ∧
        StatIs t flagsNone) ∧
      (s.issue.priv = true → StatIs t flagsNone)

/-- ADJT, when it is not denied, writes every word of the response block from the state it leaves (R204, R205), and
nothing else of its bank but STAT. -/
def Obligations.AdjtReturnsSnapshot : Prop :=
  ∀ s : State, Issued s → AdjtPermitted s →
    ∃ t, exec .adjt s = .next t ∧ StatIs t flagsNone ∧
      BankFrame s t adjtWords ∧ t.t = s.t ∧ t.mcnt = s.mcnt ∧ t.draws = s.draws ∧
      t.port.rsp =
        { offset :=
            BitVec.ofInt 64
              (if t.clock.has .nano then t.clock.offset.toInt / 4294967296
               else (t.clock.offset.toInt / 4294967296).tdiv 1000)
          freq := BitVec.ofInt 64 (t.clock.freq.toInt / 65536000)
          maxerror := t.clock.maxerror
          esterror := t.clock.esterror
          status := BitVec.ofNat 32 t.clock.status.toNat
          constant := BitVec.ofNat 32 t.clock.tc
          tai := t.clock.tai
          state := BitVec.ofNat 32 t.clock.state.toNat
          sec := t.clock.sec
          nsec := t.clock.nsec
          shift := BitVec.ofNat 32 t.pps.shift
          shiftmax := BitVec.ofNat 32 t.pps.shiftmax
          valid := t.pps.valid
          ppsfreq := BitVec.ofInt 64 (t.pps.freq.toInt / 65536000)
          jitter :=
            if t.clock.has .nano then t.pps.jitter else BitVec.ofInt 32 (t.pps.jitter.toInt.tdiv 1000)
          stabil := t.pps.stabil
          jitcnt := t.pps.jitcnt
          calcnt := t.pps.calcnt
          errcnt := t.pps.errcnt
          stbcnt := t.pps.stbcnt
          reftime := t.clock.reftime
          rawoffset := t.clock.offset
          rawfreq := t.clock.freq
          rawadj := t.clock.adj
          rawphase := t.clock.phase
          rawppsfreq := t.pps.freq }

/-- ADJT's plain fields: MAXERROR and ESTERROR (R193), TC clamped to [0, MAXTC] (R196), TAI (R197), PPS_SHIFTMAX clamped
to [2, 15] (R198); each only under its mode bit. -/
def Obligations.AdjtWritesSelectedFields : Prop :=
  ∀ s : State, Issued s → AdjtPermitted s →
    let r := s.port.req
    let m := fun n => r.modes.getLsbD n
    ∃ t, exec .adjt s = .next t ∧
      t.clock.maxerror = (if m 2 then r.maxerror else s.clock.maxerror) ∧
      t.clock.esterror = (if m 3 then r.esterror else s.clock.esterror) ∧
      (t.clock.tc : Int) = (if m 5 then max 0 (min r.constant.toInt s.cfg.maxtc) else (s.clock.tc : Int)) ∧
      t.clock.tai = (if m 7 then r.constant else s.clock.tai) ∧
      (t.pps.shiftmax : Int) = (if m 6 then max 2 (min r.shift.toInt 15) else (s.pps.shiftmax : Int)) ∧
      t.clock.sec = s.clock.sec ∧ t.clock.nsec = s.clock.nsec ∧ t.clock.adj = s.clock.adj ∧
      t.clock.phase = s.clock.phase ∧
      (m 4 = false → t.pps.shift = s.pps.shift) ∧
      t.pps = { s.pps with shift := t.pps.shift, shiftmax := t.pps.shiftmax }

/-- ADJT's status write: disabling the PLL (set before, clear in the request) resets STATE, PPS_SHIFT and STATUS first
(R194); then bits 7:0 are the request's and bits 15:8 are kept (R195), but for NANO, MODE and CLK where the same request
writes them. -/
def Obligations.AdjtStatusWrite : Prop :=
  ∀ s : State, Issued s → AdjtPermitted s →
    let r := s.port.req
    let writes := r.modes.getLsbD 4
    let disables := writes && s.clock.status.getLsbD 0 && !r.status.getLsbD 0
    ∃ t, exec .adjt s = .next t ∧
      t.clock.state = (if disables then 0#3 else s.clock.state) ∧
      t.pps.shift = (if disables then 2 else s.pps.shift) ∧
      (∀ n, n < 8 → t.clock.status.getLsbD n = if writes then r.status.getLsbD n else s.clock.status.getLsbD n) ∧
      (∀ n, 8 ≤ n → n ≤ 12 → t.clock.status.getLsbD n = (!disables && s.clock.status.getLsbD n)) ∧
      (writes = true → r.modes &&& 0xF001#32 = 0#32 →
        t.clock.status =
          ((if disables then 0x0040#16 else s.clock.status) &&& 0xFF00#16) ||| (r.status.setWidth 16 &&& 0x00FF#16))

/-- ADJT's resolution and clock-source bits: MICRO after NANO, CLKA after CLKB (R199, R200). -/
def Obligations.AdjtResolutionAndSource : Prop :=
  ∀ s : State, Issued s → AdjtPermitted s →
    let r := s.port.req
    let m := fun n => r.modes.getLsbD n
    let disables := m 4 && s.clock.status.getLsbD 0 && !r.status.getLsbD 0
    ∃ t, exec .adjt s = .next t ∧
      t.clock.status.getLsbD 13 =
        (if m 12 then false else if m 13 then true else !disables && s.clock.status.getLsbD 13) ∧
      t.clock.status.getLsbD 15 =
        (if m 15 then false else if m 14 then true else !disables && s.clock.status.getLsbD 15)

/-- ADJT's offset write runs HardUpdate on the state after the earlier writes, with the request's offset in nanoseconds,
times 1000 in microsecond mode (R201); without it the estimator does not run. `k` is the clock the estimator sees. Only a
frequency write of the same request changes FREQ afterwards. -/
def Obligations.AdjtOffsetWrite : Prop :=
  ∀ s : State, Issued s → AdjtPermitted s →
    let r := s.port.req
    let disables := r.modes.getLsbD 4 && s.clock.status.getLsbD 0 && !r.status.getLsbD 0
    let off := (r.offsetHi ++ r.offsetLo).toInt
    ∃ t, exec .adjt s = .next t ∧
      let k : Clock :=
        { t.clock with
          offset := s.clock.offset
          freq := s.clock.freq
          reftime := s.clock.reftime
          status := statusPut t.clock.status .mode (!disables && s.clock.has .mode) }
      let h := if r.modes.getLsbD 0 then hardUpdate s.cfg k (if t.clock.has .nano then off else off * 1000) else k
      t.clock = { h with freq := t.clock.freq } ∧ (r.modes.getLsbD 1 = false → t.clock.freq = h.freq)

/-- ADJT's frequency write: scaled ppm times 65 536 000, exact, clamped to ±MAXFREQ; PPS_FREQ is not touched, and without
an offset write neither REFTIME nor MODE changes but as the status write says (R202). -/
def Obligations.AdjtFrequencyWrite : Prop :=
  ∀ s : State, Issued s → AdjtPermitted s → s.port.req.modes.getLsbD 1 = true →
    let r := s.port.req
    let disables := r.modes.getLsbD 4 && s.clock.status.getLsbD 0 && !r.status.getLsbD 0
    let x := (r.freqHi ++ r.freqLo).toInt * 65536000
    ∃ t, exec .adjt s = .next t ∧
      t.clock.freq.toInt = max (-(500000 * 4294967296)) (min x (500000 * 4294967296)) ∧
      t.pps.freq = s.pps.freq ∧
      (r.modes.getLsbD 0 = false →
        t.clock.reftime = s.clock.reftime ∧ t.clock.offset = s.clock.offset ∧
        t.clock.has .mode = (!disables && s.clock.has .mode))

/-- GETT: five response fields take the tick-boundary clock, the errors and TAI; every other word of the bank but STAT
keeps its value and no shared state changes, whatever the privilege (R212). -/
def Obligations.GettReturnsClock : Prop :=
  ∀ s : State, Issued s →
    encode .gett = 0x11000000#32 ∧
    ∃ t, exec .gett s = .next t ∧ StatIs t flagsNone ∧
      PortOnly s t [0x01, 0x24, 0x25, 0x28, 0x2A, 0x2B, 0x2C] ∧
      t.port.rsp.sec = s.clock.sec ∧ t.port.rsp.nsec = s.clock.nsec ∧ t.port.rsp.maxerror = s.clock.maxerror ∧
      t.port.rsp.esterror = s.clock.esterror ∧ t.port.rsp.tai = s.clock.tai

/-! ### Tick and second -/

/-- TICK: the master count is latched, PHASE accumulates ADJ and gives up its whole nanoseconds, NSEC takes them and the
residual of ARG0 in microseconds; afterwards the integral part of PHASE is the floored remainder (R232 to R236). -/
def Obligations.TickResult : Prop :=
  ∀ s : State, Issued s → 1 ≤ s.cfg.hz → s.cfg.hz ≤ 1000000000 → s.cfg.cw ≤ 64 →
    let acc := s.clock.phase + s.clock.adj
    let q := acc.toInt / 4294967296 / s.cfg.hz
    encode .tick = 0x20000000#32 ∧
    ∃ t, exec .tick s = .next t ∧ StatIs t flagsNone ∧
      t.mcnt.toNat = s.issue.cyc.toNat % 2 ^ s.cfg.cw ∧
      t.clock =
        { s.clock with
          phase := BitVec.ofInt 64 (acc.toInt - q * s.cfg.hz * 4294967296)
          nsec := BitVec.ofInt 32 (s.clock.nsec.toInt + q + 1000 * s.port.arg0.toInt) } ∧
      t.clock.phase.toInt / 4294967296 = acc.toInt / 4294967296 % s.cfg.hz ∧
      t.t = s.t ∧ t.pps = s.pps ∧ t.draws = s.draws ∧ BankFrame s t [0x01]

/-- No time is lost to rounding: over n TICKs with ADJ unchanged, residual 0 and no wrap, NSEC gains
floor(FxGetInt(P0 + n * ADJ) / HZ) and PHASE keeps the remainder. For n = HZ this is R237, which the spec marks as derived
from R234 and R235. -/
def Obligations.TicksLoseNoTime : Prop :=
  ∀ (s : State) (n : Nat), Issued s → 1 ≤ s.cfg.hz → s.cfg.hz ≤ 1000000000 → s.port.arg0 = 0#32 →
    0 ≤ s.clock.phase.toInt → s.clock.phase.toInt < s.cfg.hz * 4294967296 →
    s.clock.adj.toInt + s.cfg.hz * 4294967296 ≤ 9223372036854775808 →
    let total := s.clock.phase.toInt + n * s.clock.adj.toInt
    ∃ t, repeatExec .tick n s = .next t ∧
      t.clock.nsec = BitVec.ofInt 32 (s.clock.nsec.toInt + total / 4294967296 / s.cfg.hz) ∧
      t.clock.phase.toInt = total % (s.cfg.hz * 4294967296) ∧
      t.clock.adj = s.clock.adj ∧ t.clock.sec = s.clock.sec

/-- SECOVF on SEC, NSEC, STATE and TAI: one second at most is normalised (R240), then one row of the leap table applies to
the SEC that left (R242). STATE codes 5 to 7 are treated as OK. -/
def Obligations.SecovfNormalisesAndLeaps : Prop :=
  ∀ s : State, Issued s →
    let due := 1000000000 ≤ s.clock.nsec.toInt
    let sec := if due then s.clock.sec + 1#64 else s.clock.sec
    let ins := s.clock.status.getLsbD 4
    let del := s.clock.status.getLsbD 5
    ∃ t, exec .secovf s = .next t ∧
      t.clock.nsec = (if due then s.clock.nsec - 1000000000#32 else s.clock.nsec) ∧
      (s.clock.state = 1#3 →
        (sec.toInt % 86400 = 0 → t.clock.sec = sec - 1#64 ∧ t.clock.state = 3#3 ∧ t.clock.tai = s.clock.tai) ∧
        (sec.toInt % 86400 ≠ 0 → t.clock.sec = sec ∧ t.clock.state = 1#3 ∧ t.clock.tai = s.clock.tai)) ∧
      (s.clock.state = 2#3 →
        ((sec.toInt + 1) % 86400 = 0 →
          t.clock.sec = sec + 1#64 ∧ t.clock.state = 4#3 ∧ t.clock.tai = s.clock.tai - 1#32) ∧
        ((sec.toInt + 1) % 86400 ≠ 0 → t.clock.sec = sec ∧ t.clock.state = 2#3 ∧ t.clock.tai = s.clock.tai)) ∧
      (s.clock.state = 3#3 → t.clock.sec = sec ∧ t.clock.state = 4#3 ∧ t.clock.tai = s.clock.tai + 1#32) ∧
      (s.clock.state = 4#3 →
        t.clock.sec = sec ∧ t.clock.state = (if !ins && !del then 0#3 else 4#3) ∧ t.clock.tai = s.clock.tai) ∧
      (s.clock.state = 0#3 ∨ 5 ≤ s.clock.state.toNat →
        t.clock.sec = sec ∧ t.clock.state = (if ins then 1#3 else if del then 2#3 else 0#3) ∧
        t.clock.tai = s.clock.tai)

/-- SECOVF on the rest: MAXERROR gains TOL_US (R241), a share of OFFSET is spent and ADJ recomputed (R246, R247), the
PPS countdown runs and at zero clears PPSSIGNAL (R248); nothing else changes (R249). -/
def Obligations.SecovfSpendsAndCounts : Prop :=
  ∀ s : State, Issued s → Inv s →
    let b := fun n => s.clock.status.getLsbD n
    let sh := if b 2 && b 8 then s.pps.shift else s.cfg.pllGain + s.clock.tc
    let spent := s.clock.offset.toInt / 2 ^ sh
    let valid := s.pps.valid.toNat - 1
    ∃ t, exec .secovf s = .next t ∧ StatIs t flagsNone ∧
      t.clock =
        { s.clock with
          sec := t.clock.sec
          nsec := t.clock.nsec
          state := t.clock.state
          tai := t.clock.tai
          maxerror := BitVec.ofNat 32 (s.clock.maxerror.toNat + s.cfg.tolUs)
          offset := BitVec.ofInt 64 (s.clock.offset.toInt - spent)
          adj := BitVec.ofInt 64 (spent + s.clock.freq.toInt + 1000000000 * 4294967296)
          status := if valid = 0 then s.clock.status &&& 0xFEFF#16 else s.clock.status } ∧
      t.pps = { s.pps with valid := BitVec.ofNat 32 valid } ∧
      t.t = s.t ∧ t.mcnt = s.mcnt ∧ t.draws = s.draws ∧ BankFrame s t [0x01]

/-- The residual offset never grows in SECOVF and keeps its sign: R246's "The magnitude of OFFSET never grows in this step",
which the spec marks as derived from R157. -/
def Obligations.ResidualNeverGrows : Prop :=
  ∀ s : State, Inv s →
    ∃ t, exec .secovf s = .next t ∧
      (0 ≤ s.clock.offset.toInt → 0 ≤ t.clock.offset.toInt ∧ t.clock.offset.toInt ≤ s.clock.offset.toInt) ∧
      (s.clock.offset.toInt ≤ 0 → t.clock.offset.toInt ≤ 0 ∧ s.clock.offset.toInt ≤ t.clock.offset.toInt)

/-- SETT: with privilege SEC and the clamped NSEC are set and nothing else changes; without, denied with no change but
STAT (R252). -/
def Obligations.SettSetsClock : Prop :=
  ∀ s : State, Issued s →
    encode .sett = 0x22000000#32 ∧
    ∃ t, exec .sett s = .next t ∧
      (s.issue.priv = true →
        t.clock = { s.clock with sec := s.port.arg1 ++ s.port.arg0, nsec := t.clock.nsec } ∧
        t.clock.nsec.toInt = max 0 (min s.port.arg2.toInt 999999999) ∧
        t.t = s.t ∧ t.pps = s.pps ∧ t.mcnt = s.mcnt ∧ t.draws = s.draws ∧ BankFrame s t [0x01] ∧
        StatIs t flagsNone) ∧
      (s.issue.priv = false → PortOnly s t [0x01] ∧ StatIs t { flagsNone with denied := true })

/-! ### Estimator -/

/-- HUPD with the PLL enabled and the frequency not owned by the PPS path: the clamped sample is loaded unless the PPS path
owns the offset, REFTIME takes SEC, and FREQ and MODE are committed together (R272, R274 to R284). -/
def Obligations.HupdUpdatesEstimate : Prop :=
  ∀ s : State, Issued s → s.cfg.Wf → s.clock.tc ≤ s.cfg.maxtc →
    let k := s.clock
    let b := fun n => k.status.getLsbD n
    b 0 = true → (b 1 && b 8) = false →
    let m := max (-500000000) (min (s.port.arg1 ++ s.port.arg0).toInt 500000000)
    let e : Int := if b 7 || k.reftime == 0#64 then 0 else max (k.sec.toInt - k.reftime.toInt) 0
    let f := m * 4294967296 / 2 ^ (2 * (s.cfg.pllGain + k.tc)) * e
    let fll := (s.cfg.minsec : Int) ≤ e ∧ (b 3 = true ∨ (s.cfg.maxsec : Int) < e)
    let g := (m * 16).tdiv e * 4294967296 / 2 ^ (s.cfg.fllGain + 4)
    let nf := BitVec.ofInt 64 (k.freq.toInt + f + if fll then g else 0)
    ∃ t, exec .hupd s = .next t ∧ StatIs t flagsNone ∧
      t.clock =
        { k with
          offset := if b 2 && b 8 then k.offset else BitVec.ofInt 64 (m * 4294967296)
          reftime := k.sec
          freq := t.clock.freq
          status := if fll then k.status ||| 0x4000#16 else k.status &&& 0xBFFF#16 } ∧
      t.clock.freq.toInt = max (-(500000 * 4294967296)) (min nf.toInt (500000 * 4294967296)) ∧
      t.t = s.t ∧ t.pps = s.pps ∧ t.mcnt = s.mcnt ∧ t.draws = s.draws ∧ BankFrame s t [0x01]

/-- HUPD with the PLL disabled changes nothing but STAT (R273); where the PPS path owns the frequency, only OFFSET (unless
owned too) and REFTIME change (R276). -/
def Obligations.HupdDisabledOrPpsOwned : Prop :=
  ∀ s : State, Issued s →
    let k := s.clock
    let b := fun n => k.status.getLsbD n
    let m := max (-500000000) (min (s.port.arg1 ++ s.port.arg0).toInt 500000000)
    ∃ t, exec .hupd s = .next t ∧ StatIs t flagsNone ∧ BankFrame s t [0x01] ∧
      t.t = s.t ∧ t.pps = s.pps ∧ t.mcnt = s.mcnt ∧ t.draws = s.draws ∧
      (b 0 = false → t.clock = k) ∧
      (b 0 = true → b 1 = true → b 8 = true →
        t.clock =
          { k with
            offset := if b 2 then k.offset else BitVec.ofInt 64 (m * 4294967296)
            reftime := k.sec })

/-- A zero sample leaves FREQ unchanged and, where it is loaded, makes OFFSET 0 (R288). -/
def Obligations.ZeroSampleKeepsFrequency : Prop :=
  ∀ s : State, Inv s → s.port.arg0 = 0#32 → s.port.arg1 = 0#32 →
    ∃ t, exec .hupd s = .next t ∧ t.clock.freq = s.clock.freq ∧
      (s.clock.status.getLsbD 0 = true → (s.clock.status.getLsbD 2 && s.clock.status.getLsbD 8) = false →
        t.clock.offset = 0#64)

/-- A positive sample never lowers FREQ and a negative one never raises it: one update of R289, which the spec marks as
derived from R279, R281 and R283. The premise on the sample is
a little stronger than R289's proviso, and e is bounded by 2^52: at the edge of that proviso the sum of FREQ and the two
terms can itself leave 64 bits, which R289 does not speak of. -/
def Obligations.FrequencyFollowsSampleSign : Prop :=
  ∀ s : State, Inv s →
    let sample := (s.port.arg1 ++ s.port.arg0).toInt
    let m := max (-500000000) (min sample 500000000)
    let e := max (s.clock.sec.toInt - s.clock.reftime.toInt) 0
    (m.natAbs : Int) * e ≤ 2000000000 * 2 ^ (2 * (s.cfg.pllGain + s.clock.tc)) → e ≤ 4503599627370496 →
    ∃ t, exec .hupd s = .next t ∧
      (0 < sample → s.clock.freq.toInt ≤ t.clock.freq.toInt) ∧
      (sample < 0 → t.clock.freq.toInt ≤ s.clock.freq.toInt)

/-! ### PPS -/

/-- Median3 is the middle of the three in sorted order, its span the greatest less the least, and neither depends on the
order of the arguments (R315). -/
def Obligations.MedianIsMiddle : Prop :=
  ∀ a b c : Int,
    (a ≤ b → b ≤ c → median3 a b c = b ∧ span3 a b c = c - a) ∧
    (median3 a b c = median3 b a c ∧ median3 a b c = median3 a c b) ∧
    (span3 a b c = span3 b a c ∧ span3 a b c = span3 a c b) ∧ 0 ≤ span3 a b c

/-- The recorded fraction is the signed distance from the nearest second (R302). -/
def Obligations.EdgeIsNearestSecond : Prop :=
  ∀ (sec : BitVec 64) (nsec : Int),
    let n := max 0 (min nsec 999999999)
    (n < 500000000 → normaliseEdge sec nsec = ⟨sec, n⟩) ∧
    (500000000 ≤ n → normaliseEdge sec nsec = ⟨sec + 1#64, n - 1000000000⟩)

/-- A duplicate edge takes the entry actions only (R304, R305). -/
def Obligations.HppsDropsDuplicate : Prop :=
  ∀ s : State, Issued s → s.pps.init = true → s.edge.sec = s.pps.tfsec →
    ∃ t, exec .hpps s = .next t ∧ PpsFrame s t ∧
      t.clock = { s.clock with status := (s.clock.status &&& 0xF3FF#16) ||| 0x0300#16 } ∧
      t.pps = { s.pps with valid := BitVec.ofNat 32 s.cfg.ppsValidInit }

/-- An edge beyond the range gate is recorded and its counter delta accumulated, and PPSJITTER is left set (R306, R307,
R310). The delta d, from the last counter value (from itself on the first edge), is corrected as R311 says: once by a
second, then once by a tick. `ppsSum`, of which the statements about an edge that passes the gate speak, is that same sum
in every state. A sum outside 64 signed bits is unstated (log 9). -/
def Obligations.HppsGatesEdge : Prop :=
  ∀ s : State, Issued s →
    let d := if s.pps.init then s.port.arg3.toInt - s.pps.lastcount.toInt else 0
    let d1 := if 500000000 < d then d - 1000000000 else if d < -500000000 then d + 1000000000 else d
    let tick : Int := (1000000000 / s.cfg.hz : Nat)
    let half := tick / 2
    let d2 := if half < d1 then d1 - tick else if d1 < -half then d1 + tick else d1
    let sum := (if s.pps.init then s.pps.fcount.toInt else 0) + d2
    s.ppsSum = sum ∧
    (s.edgeIsNew → ¬s.edgePasses →
      ∃ t, exec .hpps s = .next t ∧ PpsFrame s t ∧
        t.clock = { s.clock with status := (s.clock.status &&& 0xF3FF#16) ||| 0x0300#16 } ∧
        t.pps = { s.ppsRecorded with fcount := t.pps.fcount } ∧
        (FitsS64 sum → t.pps.fcount.toInt = sum))

/-- An edge that passes the gate while the interval is open is recorded and filtered, and nothing more (R317 to R319,
R321). -/
def Obligations.HppsFiltersOpenInterval : Prop :=
  ∀ s : State, Issued s → s.edgeIsNew → s.edgePasses → s.ppsElapsed < 2 ^ s.pps.shift →
    ∃ t, exec .hpps s = .next t ∧ PpsFrame s t ∧ PpsFiltered s t ∧
      t.clock = { s.clock with offset := t.clock.offset, status := t.clock.status } ∧
      t.clock.status &&& 0xFDFF#16 = (s.clock.status &&& 0xF1FF#16) ||| 0x0100#16 ∧
      t.pps = { s.ppsRecorded with fcount := t.pps.fcount, jitcnt := t.pps.jitcnt, jitter := t.pps.jitter } ∧
      (FitsS64 s.ppsSum → t.pps.fcount.toInt = s.ppsSum)

/-- An interval that ends with its sum out of bounds or its seconds mismatched is counted, restarted and rejected with
PPSERROR (R322, R323). -/
def Obligations.HppsRejectsInterval : Prop :=
  ∀ s : State, Issued s → s.edgeIsNew → s.edgePasses → 2 ^ s.pps.shift ≤ s.ppsElapsed → FitsS64 s.ppsSum →
    (500000 * 2 ^ s.pps.shift < s.ppsSum ∨ s.ppsSum < -(500000 * 2 ^ s.pps.shift) ∨
      s.ppsElapsed ≠ 2 ^ s.pps.shift) →
    ∃ t, exec .hpps s = .next t ∧ PpsFrame s t ∧ PpsFiltered s t ∧
      t.clock = { s.clock with offset := t.clock.offset, status := t.clock.status } ∧
      t.clock.status &&& 0xFDFF#16 = (s.clock.status &&& 0xF1FF#16) ||| 0x0900#16 ∧
      t.pps =
        { s.ppsRecorded with
          fcount := 0#64
          lastsec := s.edge.sec
          calcnt := s.pps.calcnt + 1#32
          errcnt := s.pps.errcnt + 1#32
          jitcnt := t.pps.jitcnt
          jitter := t.pps.jitter }

/-- An interval that ends within its bounds: the wander is clamped and flagged where out of bound, the up/down counter and
the shift adapt, the wander is integrated into PPS_FREQ and copied to FREQ where frequency discipline is enabled
(R322, R324 to R330). -/
def Obligations.HppsAcceptsInterval : Prop :=
  ∀ s : State, Issued s → Inv s → s.edgeIsNew → s.edgePasses → s.ppsElapsed = 2 ^ s.pps.shift →
    -(500000 * 2 ^ s.pps.shift) ≤ s.ppsSum → s.ppsSum ≤ 500000 * 2 ^ s.pps.shift →
    let wfx := s.ppsSum * 2 ^ (32 - s.pps.shift) - s.pps.freq.toInt
    let w := wfx / 4294967296
    let lim : Int := s.cfg.maxwander
    let bad := lim < w ∨ w < -lim
    let wfx' := if lim < w then lim * 4294967296 else if w < -lim then -(lim * 4294967296) else wfx
    let w' := max (-lim) (min w lim)
    let n := if bad then s.pps.intcnt - 1 else s.pps.intcnt + 1
    let up := 4 ≤ n
    let down := ¬up ∧ (n ≤ -4 ∨ s.pps.shiftmax < s.pps.shift)
    let metric := s.pps.stabil.toInt + ((w'.natAbs : Int) * s.cfg.scalePpm - s.pps.stabil.toInt) / 2 ^ s.cfg.ppsAvg
    ∃ t, exec .hpps s = .next t ∧ PpsFrame s t ∧ PpsFiltered s t ∧
      t.clock = { s.clock with offset := t.clock.offset, status := t.clock.status, freq := t.clock.freq } ∧
      t.clock.status &&& 0xFDFF#16 =
        (s.clock.status &&& 0xF1FF#16) ||| (if bad then 0x0500#16 else 0x0100#16) ∧
      t.clock.freq = (if s.clock.status.getLsbD 1 then t.pps.freq else s.clock.freq) ∧
      t.pps.freq.toInt =
        max (-(500000 * 4294967296)) (min (s.pps.freq.toInt + wfx') (500000 * 4294967296)) ∧
      t.pps =
        { s.ppsRecorded with
          fcount := 0#64
          lastsec := s.edge.sec
          calcnt := s.pps.calcnt + 1#32
          stbcnt := if bad then s.pps.stbcnt + 1#32 else s.pps.stbcnt
          intcnt :=
            if up then (if s.pps.shift < s.pps.shiftmax then 0 else 4)
            else if down then (if 2 < s.pps.shift then 0 else -4)
            else n
          shift :=
            if up ∧ s.pps.shift < s.pps.shiftmax then s.pps.shift + 1
            else if down ∧ 2 < s.pps.shift then s.pps.shift - 1
            else s.pps.shift
          freq := t.pps.freq
          stabil := t.pps.stabil
          jitcnt := t.pps.jitcnt
          jitter := t.pps.jitter } ∧
      (FitsS32 metric → t.pps.stabil.toInt = metric)

/-! ### Interpolator -/

/-- The first CALIB on a bank seeds the ratio from the rated frequency and samples counter and clock; nothing of any other
processor and nothing shared changes (R351, R352). -/
def Obligations.CalibSeedsRatio : Prop :=
  ∀ s : State, Issued s → s.cfg.Wf → s.self.interp.initd = false →
    ∃ t, exec .calib s = .next t ∧ StatIs t flagsNone ∧ SameDrive s t ∧ PortsKept s t [0x01] ∧ LastKept s t ∧
      t.t = s.t ∧ t.clock = s.clock ∧ t.pps = s.pps ∧ t.mcnt = s.mcnt ∧ t.draws = s.draws ∧
      (∀ p, p ≠ s.issue.bank → t.cpu p = s.cpu p) ∧
      t.self.interp =
        { scnt := BitVec.ofNat 64 (s.issue.cyc.toNat % 2 ^ s.cfg.cw)
          stsec := s.clock.sec
          stnsec := s.clock.nsec
          num := 1000000000#64
          den := BitVec.ofNat 64 s.cfg.cpuHz
          initd := true }

/-- A later CALIB replaces the ratio by the elapsed nanoseconds over the elapsed counts where both are positive and the
former fits, and the sample in every case (R351, R354, R355). -/
def Obligations.CalibUpdatesRatio : Prop :=
  ∀ s : State, Issued s → s.cfg.Wf → s.self.interp.initd = true →
    let u := s.self.interp
    let num := (s.clock.sec.toInt - u.stsec.toInt) * 1000000000 + (s.clock.nsec.toInt - u.stnsec.toInt)
    let den := ((s.issue.cyc.toNat : Int) - u.scnt.toNat) % 2 ^ s.cfg.cw
    let good := 0 < num ∧ num ≤ 9223372036854775807 ∧ 0 < den
    ∃ t, exec .calib s = .next t ∧ StatIs t flagsNone ∧ SameDrive s t ∧ PortsKept s t [0x01] ∧ LastKept s t ∧
      t.t = s.t ∧ t.clock = s.clock ∧ t.pps = s.pps ∧ t.mcnt = s.mcnt ∧ t.draws = s.draws ∧
      (∀ p, p ≠ s.issue.bank → t.cpu p = s.cpu p) ∧
      t.self.interp.scnt.toNat = s.issue.cyc.toNat % 2 ^ s.cfg.cw ∧
      t.self.interp.stsec = s.clock.sec ∧ t.self.interp.stnsec = s.clock.nsec ∧ t.self.interp.initd = true ∧
      (good → t.self.interp.num.toInt = num ∧ (t.self.interp.den.toNat : Int) = den) ∧
      (¬good → t.self.interp.num = u.num ∧ t.self.interp.den = u.den)

/-- NOW: the candidate is the tick-boundary clock plus the interpolated offset clamped to one tick (0 before CALIB); it is
returned, or previous + 1 ns where it is not later and not more than a second earlier; LAST takes what is returned
(R356, R357, R359 to R361). -/
def Obligations.NowReturnsTimestamp : Prop :=
  ∀ s : State, Issued s → s.cfg.Wf →
    let u := s.self.interp
    let delta := ((s.issue.cyc.toNat : Int) - s.mcnt.toNat) % 2 ^ s.cfg.cw
    let off := if u.initd then min (delta * u.num.toInt / (u.den.toNat : Int)) (1000000000 / s.cfg.hz : Nat) else 0
    let cand := s.clock.sec.toInt * 1000000000 + s.clock.nsec.toInt + off
    let last := s.lastSec.toInt * 1000000000 + s.lastNsec.toInt
    let held := cand ≤ last ∧ last - cand ≤ 1000000000
    let out := if held then last + 1 else cand
    encode .now = 0x51000000#32 ∧
    ∃ t, exec .now s = .next t ∧
      t.lastSec = BitVec.ofInt 64 (out / 1000000000) ∧ t.lastNsec.toInt = out % 1000000000 ∧
      t.port.res0.toNat = t.lastSec.toNat % 4294967296 ∧ t.port.res1.toNat = t.lastSec.toNat / 4294967296 ∧
      t.port.res2 = t.lastNsec ∧ StatIs t { flagsNone with mono := decide held } ∧
      t.t = s.t ∧ t.clock = s.clock ∧ t.pps = s.pps ∧ t.mcnt = s.mcnt ∧ t.draws = s.draws ∧
      SameDrive s t ∧ InterpsKept s t ∧ PortsKept s t [0x01, 0x06, 0x07, 0x08]

/-- Of two timestamps NOW returns, the later is strictly greater unless the candidate lies more than one second behind
(R360, R361; R362 is marked as derived from them); seconds away from the ends of the 64-bit range. -/
def Obligations.NowIsStrictlyMonotonic : Prop :=
  ∀ s : State, s.cfg.Wf → 1 ≤ s.cfg.hz →
    -4611686018427387904 ≤ s.clock.sec.toInt → s.clock.sec.toInt < 4611686018427387904 →
    -4611686018427387904 ≤ s.lastSec.toInt → s.lastSec.toInt < 4611686018427387904 →
    (s.self.interp.initd = true → 1 ≤ s.self.interp.num.toInt) →
    ∃ t, exec .now s = .next t ∧
      let last := s.lastSec.toInt * 1000000000 + s.lastNsec.toInt
      let out := t.lastSec.toInt * 1000000000 + t.lastNsec.toInt
      (last < out ∨ 1000000000 < last - out ∧ out = nowCandidate s) ∧
      s.clock.sec.toInt * 1000000000 + s.clock.nsec.toInt ≤ nowCandidate s ∧
      nowCandidate s ≤ s.clock.sec.toInt * 1000000000 + s.clock.nsec.toInt + 1000000000 / s.cfg.hz

/-! ### The whole machine -/

/-- Every step keeps the invariant of R87 (which the spec marks as derived), with the ranges and widths of R57, R60, R71,
R74 and R84, from every state that has it. -/
def Obligations.StepKeepsInvariant : Prop :=
  ∀ s t : State, Inv s → step s = .next t → Inv t

/-- The reset state of every admitted parameter choice has the invariant. -/
def Obligations.ResetHasInvariant : Prop :=
  ∀ c : Params, c.Wf → Inv (State.resetWith c)

/-- The reset values of the spec, for every parameter choice (R431). -/
def Obligations.ResetValues : Prop :=
  ∀ c : Params,
    let s := State.resetWith c
    s.clock =
      { sec := 0#64, nsec := 0#32, status := 0x0040#16, state := 0#3, offset := 0#64, freq := 0#64,
        adj := 0x3B9ACA0000000000#64, phase := 0#64, tc := 0, maxerror := BitVec.ofNat 32 c.errReset,
        esterror := BitVec.ofNat 32 c.errReset, reftime := 0#64, tai := 0#32 } ∧
    s.pps =
      { init := false, tfn0 := 0#32, tfn1 := 0#32, tfn2 := 0#32, tfsec := 0#64, freq := 0#64, shift := 2,
        shiftmax := c.ppsShiftmaxReset, jitter := 0#32, stabil := 0#32, jitcnt := 0#32, calcnt := 0#32,
        errcnt := 0#32, stbcnt := 0#32, valid := 0#32, lastcount := 0#32, fcount := 0#64, lastsec := 0#64,
        intcnt := 0 } ∧
    s.mcnt = 0#64 ∧ s.lastSec = 0#64 ∧ s.lastNsec = 0#32 ∧ (∀ r, s.readT r = 0#64) ∧ s.cpus.length = c.ncpu ∧
    ∀ p, p < c.ncpu →
      (s.cpu p).interp = { scnt := 0#64, stsec := 0#64, stnsec := 0#32, num := 0#64, den := 0#64, initd := false } ∧
      ∀ r, (s.cpu p).port.read r = if r = .stat then 0x00000005#32 else 0#32

/-- An access of one bank changes nothing of any other: neither its port words nor its interpolation state; and no step
changes the parameters (R91, R129, R436). -/
def Obligations.BanksAreIsolated : Prop :=
  ∀ (s t : State), step s = .next t →
    t.cfg = s.cfg ∧
    ∀ (a : Access) (rest : List Access), s.pending = a :: rest →
      t.pending = rest ∧ ∀ p, p ≠ a.addr / 128 → t.cpus[p]? = s.cpus[p]?

/-- SECOVF moves SEC by one second when one is due and by none when not, less one at an inserted second and plus one at a
deleted one; TAI loses one at a deleted second and gains one at the SECOVF after an inserted one (R242, R244, R245). No
other command but SETT changes SEC, and none but ADJT changes TAI (R86). -/
def Obligations.LeapShiftsOneSecond : Prop :=
  (∀ s t : State, exec .secovf s = .next t →
    (t.clock.tai =
      if s.clock.state = 2#3 ∧ t.clock.state = 4#3 then s.clock.tai - 1#32
      else if s.clock.state = 3#3 then s.clock.tai + 1#32
      else s.clock.tai) ∧
    (-9223372036854775808 < s.clock.sec.toInt → s.clock.sec.toInt < 9223372036854775806 →
      let due : Int := if 1000000000 ≤ s.clock.nsec.toInt then 1 else 0
      t.clock.sec.toInt - s.clock.sec.toInt - due =
        if s.clock.state = 1#3 ∧ t.clock.state = 3#3 then -1
        else if s.clock.state = 2#3 ∧ t.clock.state = 4#3 then 1
        else 0)) ∧
  ∀ (i : Instr) (s t : State), exec i s = .next t → i ≠ .secovf →
    (i ≠ .sett → t.clock.sec = s.clock.sec) ∧ (i ≠ .adjt → t.clock.tai = s.clock.tai)
end

