-- ==== Sys2Proof/Laws/State.lean ====
section
/-! SUPPORT. One lemma per field of State per named update, true by rfl, so that no later proof unfolds an update. -/

namespace Sys2Proof.Machine

@[simp] theorem State.writeT_cfg (s : State) (r : BitVec 4) (v : Fx) : (s.writeT r v).cfg = s.cfg := rfl
@[simp] theorem State.writeT_clock (s : State) (r : BitVec 4) (v : Fx) : (s.writeT r v).clock = s.clock := rfl
@[simp] theorem State.writeT_pps (s : State) (r : BitVec 4) (v : Fx) : (s.writeT r v).pps = s.pps := rfl
@[simp] theorem State.writeT_mcnt (s : State) (r : BitVec 4) (v : Fx) : (s.writeT r v).mcnt = s.mcnt := rfl
@[simp] theorem State.writeT_lastSec (s : State) (r : BitVec 4) (v : Fx) : (s.writeT r v).lastSec = s.lastSec := rfl
@[simp] theorem State.writeT_lastNsec (s : State) (r : BitVec 4) (v : Fx) : (s.writeT r v).lastNsec = s.lastNsec := rfl
@[simp] theorem State.writeT_cpus (s : State) (r : BitVec 4) (v : Fx) : (s.writeT r v).cpus = s.cpus := rfl
@[simp] theorem State.writeT_issue (s : State) (r : BitVec 4) (v : Fx) : (s.writeT r v).issue = s.issue := rfl
@[simp] theorem State.writeT_pending (s : State) (r : BitVec 4) (v : Fx) : (s.writeT r v).pending = s.pending := rfl
@[simp] theorem State.writeT_reads (s : State) (r : BitVec 4) (v : Fx) : (s.writeT r v).reads = s.reads := rfl
@[simp] theorem State.writeT_draws (s : State) (r : BitVec 4) (v : Fx) : (s.writeT r v).draws = s.draws := rfl

@[simp] theorem State.modifyCpu_cfg (s : State) (p : Nat) (f : Cpu → Cpu) : (s.modifyCpu p f).cfg = s.cfg := rfl
@[simp] theorem State.modifyCpu_t (s : State) (p : Nat) (f : Cpu → Cpu) : (s.modifyCpu p f).t = s.t := rfl
@[simp] theorem State.modifyCpu_clock (s : State) (p : Nat) (f : Cpu → Cpu) : (s.modifyCpu p f).clock = s.clock := rfl
@[simp] theorem State.modifyCpu_pps (s : State) (p : Nat) (f : Cpu → Cpu) : (s.modifyCpu p f).pps = s.pps := rfl
@[simp] theorem State.modifyCpu_mcnt (s : State) (p : Nat) (f : Cpu → Cpu) : (s.modifyCpu p f).mcnt = s.mcnt := rfl
@[simp] theorem State.modifyCpu_lastSec (s : State) (p : Nat) (f : Cpu → Cpu) : (s.modifyCpu p f).lastSec = s.lastSec := rfl
@[simp] theorem State.modifyCpu_lastNsec (s : State) (p : Nat) (f : Cpu → Cpu) : (s.modifyCpu p f).lastNsec = s.lastNsec := rfl
@[simp] theorem State.modifyCpu_cpus (s : State) (p : Nat) (f : Cpu → Cpu) : (s.modifyCpu p f).cpus = s.cpus.modify p f := rfl
@[simp] theorem State.modifyCpu_issue (s : State) (p : Nat) (f : Cpu → Cpu) : (s.modifyCpu p f).issue = s.issue := rfl
@[simp] theorem State.modifyCpu_pending (s : State) (p : Nat) (f : Cpu → Cpu) : (s.modifyCpu p f).pending = s.pending := rfl
@[simp] theorem State.modifyCpu_reads (s : State) (p : Nat) (f : Cpu → Cpu) : (s.modifyCpu p f).reads = s.reads := rfl
@[simp] theorem State.modifyCpu_draws (s : State) (p : Nat) (f : Cpu → Cpu) : (s.modifyCpu p f).draws = s.draws := rfl

@[simp] theorem State.modifyPort_cfg (s : State) (f : Port → Port) : (s.modifyPort f).cfg = s.cfg := rfl
@[simp] theorem State.modifyPort_t (s : State) (f : Port → Port) : (s.modifyPort f).t = s.t := rfl
@[simp] theorem State.modifyPort_clock (s : State) (f : Port → Port) : (s.modifyPort f).clock = s.clock := rfl
@[simp] theorem State.modifyPort_pps (s : State) (f : Port → Port) : (s.modifyPort f).pps = s.pps := rfl
@[simp] theorem State.modifyPort_mcnt (s : State) (f : Port → Port) : (s.modifyPort f).mcnt = s.mcnt := rfl
@[simp] theorem State.modifyPort_lastSec (s : State) (f : Port → Port) : (s.modifyPort f).lastSec = s.lastSec := rfl
@[simp] theorem State.modifyPort_lastNsec (s : State) (f : Port → Port) : (s.modifyPort f).lastNsec = s.lastNsec := rfl
@[simp] theorem State.modifyPort_cpus (s : State) (f : Port → Port) : (s.modifyPort f).cpus = s.cpus.modify s.issue.bank fun u => { u with port := f u.port } := rfl
@[simp] theorem State.modifyPort_issue (s : State) (f : Port → Port) : (s.modifyPort f).issue = s.issue := rfl
@[simp] theorem State.modifyPort_pending (s : State) (f : Port → Port) : (s.modifyPort f).pending = s.pending := rfl
@[simp] theorem State.modifyPort_reads (s : State) (f : Port → Port) : (s.modifyPort f).reads = s.reads := rfl
@[simp] theorem State.modifyPort_draws (s : State) (f : Port → Port) : (s.modifyPort f).draws = s.draws := rfl

@[simp] theorem State.modifyInterp_cfg (s : State) (f : Interp → Interp) : (s.modifyInterp f).cfg = s.cfg := rfl
@[simp] theorem State.modifyInterp_t (s : State) (f : Interp → Interp) : (s.modifyInterp f).t = s.t := rfl
@[simp] theorem State.modifyInterp_clock (s : State) (f : Interp → Interp) : (s.modifyInterp f).clock = s.clock := rfl
@[simp] theorem State.modifyInterp_pps (s : State) (f : Interp → Interp) : (s.modifyInterp f).pps = s.pps := rfl
@[simp] theorem State.modifyInterp_mcnt (s : State) (f : Interp → Interp) : (s.modifyInterp f).mcnt = s.mcnt := rfl
@[simp] theorem State.modifyInterp_lastSec (s : State) (f : Interp → Interp) : (s.modifyInterp f).lastSec = s.lastSec := rfl
@[simp] theorem State.modifyInterp_lastNsec (s : State) (f : Interp → Interp) : (s.modifyInterp f).lastNsec = s.lastNsec := rfl
@[simp] theorem State.modifyInterp_cpus (s : State) (f : Interp → Interp) : (s.modifyInterp f).cpus = s.cpus.modify s.issue.bank fun u => { u with interp := f u.interp } := rfl
@[simp] theorem State.modifyInterp_issue (s : State) (f : Interp → Interp) : (s.modifyInterp f).issue = s.issue := rfl
@[simp] theorem State.modifyInterp_pending (s : State) (f : Interp → Interp) : (s.modifyInterp f).pending = s.pending := rfl
@[simp] theorem State.modifyInterp_reads (s : State) (f : Interp → Interp) : (s.modifyInterp f).reads = s.reads := rfl
@[simp] theorem State.modifyInterp_draws (s : State) (f : Interp → Interp) : (s.modifyInterp f).draws = s.draws := rfl

@[simp] theorem State.finish_cfg (s : State) (f : CmdFlags) : (s.finish f).cfg = s.cfg := rfl
@[simp] theorem State.finish_t (s : State) (f : CmdFlags) : (s.finish f).t = s.t := rfl
@[simp] theorem State.finish_clock (s : State) (f : CmdFlags) : (s.finish f).clock = s.clock := rfl
@[simp] theorem State.finish_pps (s : State) (f : CmdFlags) : (s.finish f).pps = s.pps := rfl
@[simp] theorem State.finish_mcnt (s : State) (f : CmdFlags) : (s.finish f).mcnt = s.mcnt := rfl
@[simp] theorem State.finish_lastSec (s : State) (f : CmdFlags) : (s.finish f).lastSec = s.lastSec := rfl
@[simp] theorem State.finish_lastNsec (s : State) (f : CmdFlags) : (s.finish f).lastNsec = s.lastNsec := rfl
@[simp] theorem State.finish_issue (s : State) (f : CmdFlags) : (s.finish f).issue = s.issue := rfl
@[simp] theorem State.finish_pending (s : State) (f : CmdFlags) : (s.finish f).pending = s.pending := rfl
@[simp] theorem State.finish_reads (s : State) (f : CmdFlags) : (s.finish f).reads = s.reads := rfl
@[simp] theorem State.finish_draws (s : State) (f : CmdFlags) : (s.finish f).draws = s.draws := rfl

@[simp] theorem State.complete_cfg (s : State) : (s.complete).cfg = s.cfg := rfl
@[simp] theorem State.complete_t (s : State) : (s.complete).t = s.t := rfl
@[simp] theorem State.complete_clock (s : State) : (s.complete).clock = s.clock := rfl
@[simp] theorem State.complete_pps (s : State) : (s.complete).pps = s.pps := rfl
@[simp] theorem State.complete_mcnt (s : State) : (s.complete).mcnt = s.mcnt := rfl
@[simp] theorem State.complete_lastSec (s : State) : (s.complete).lastSec = s.lastSec := rfl
@[simp] theorem State.complete_lastNsec (s : State) : (s.complete).lastNsec = s.lastNsec := rfl
@[simp] theorem State.complete_issue (s : State) : (s.complete).issue = s.issue := rfl
@[simp] theorem State.complete_pending (s : State) : (s.complete).pending = s.pending := rfl
@[simp] theorem State.complete_reads (s : State) : (s.complete).reads = s.reads := rfl
@[simp] theorem State.complete_draws (s : State) : (s.complete).draws = s.draws := rfl

@[simp] theorem State.raiseDenied_cfg (s : State) : (s.raiseDenied).cfg = s.cfg := rfl
@[simp] theorem State.raiseDenied_t (s : State) : (s.raiseDenied).t = s.t := rfl
@[simp] theorem State.raiseDenied_clock (s : State) : (s.raiseDenied).clock = s.clock := rfl
@[simp] theorem State.raiseDenied_pps (s : State) : (s.raiseDenied).pps = s.pps := rfl
@[simp] theorem State.raiseDenied_mcnt (s : State) : (s.raiseDenied).mcnt = s.mcnt := rfl
@[simp] theorem State.raiseDenied_lastSec (s : State) : (s.raiseDenied).lastSec = s.lastSec := rfl
@[simp] theorem State.raiseDenied_lastNsec (s : State) : (s.raiseDenied).lastNsec = s.lastNsec := rfl
@[simp] theorem State.raiseDenied_issue (s : State) : (s.raiseDenied).issue = s.issue := rfl
@[simp] theorem State.raiseDenied_pending (s : State) : (s.raiseDenied).pending = s.pending := rfl
@[simp] theorem State.raiseDenied_reads (s : State) : (s.raiseDenied).reads = s.reads := rfl
@[simp] theorem State.raiseDenied_draws (s : State) : (s.raiseDenied).draws = s.draws := rfl

@[simp] theorem State.raiseIllegal_cfg (s : State) : (s.raiseIllegal).cfg = s.cfg := rfl
@[simp] theorem State.raiseIllegal_t (s : State) : (s.raiseIllegal).t = s.t := rfl
@[simp] theorem State.raiseIllegal_clock (s : State) : (s.raiseIllegal).clock = s.clock := rfl
@[simp] theorem State.raiseIllegal_pps (s : State) : (s.raiseIllegal).pps = s.pps := rfl
@[simp] theorem State.raiseIllegal_mcnt (s : State) : (s.raiseIllegal).mcnt = s.mcnt := rfl
@[simp] theorem State.raiseIllegal_lastSec (s : State) : (s.raiseIllegal).lastSec = s.lastSec := rfl
@[simp] theorem State.raiseIllegal_lastNsec (s : State) : (s.raiseIllegal).lastNsec = s.lastNsec := rfl
@[simp] theorem State.raiseIllegal_issue (s : State) : (s.raiseIllegal).issue = s.issue := rfl
@[simp] theorem State.raiseIllegal_pending (s : State) : (s.raiseIllegal).pending = s.pending := rfl
@[simp] theorem State.raiseIllegal_reads (s : State) : (s.raiseIllegal).reads = s.reads := rfl
@[simp] theorem State.raiseIllegal_draws (s : State) : (s.raiseIllegal).draws = s.draws := rfl

@[simp] theorem State.withIssue_cfg (s : State) (a : Access) : (s.withIssue a).cfg = s.cfg := rfl
@[simp] theorem State.withIssue_t (s : State) (a : Access) : (s.withIssue a).t = s.t := rfl
@[simp] theorem State.withIssue_clock (s : State) (a : Access) : (s.withIssue a).clock = s.clock := rfl
@[simp] theorem State.withIssue_pps (s : State) (a : Access) : (s.withIssue a).pps = s.pps := rfl
@[simp] theorem State.withIssue_mcnt (s : State) (a : Access) : (s.withIssue a).mcnt = s.mcnt := rfl
@[simp] theorem State.withIssue_lastSec (s : State) (a : Access) : (s.withIssue a).lastSec = s.lastSec := rfl
@[simp] theorem State.withIssue_lastNsec (s : State) (a : Access) : (s.withIssue a).lastNsec = s.lastNsec := rfl
@[simp] theorem State.withIssue_cpus (s : State) (a : Access) : (s.withIssue a).cpus = s.cpus := rfl
@[simp] theorem State.withIssue_issue (s : State) (a : Access) : (s.withIssue a).issue = ⟨bankOf a.addr, a.cyc, a.priv⟩ := rfl
@[simp] theorem State.withIssue_pending (s : State) (a : Access) : (s.withIssue a).pending = s.pending := rfl
@[simp] theorem State.withIssue_reads (s : State) (a : Access) : (s.withIssue a).reads = s.reads := rfl
@[simp] theorem State.withIssue_draws (s : State) (a : Access) : (s.withIssue a).draws = s.draws := rfl

theorem State.withFetchWord_pending (s : State) (n w : Nat) :
    (s.withFetchWord n w).pending = cmdWrite (BitVec.ofNat 32 (w % 2 ^ n)) :: s.pending := rfl

end Sys2Proof.Machine
end

