-- ==== Sys2Proof/Laws/Ops.lean ====
section
/-! SUPPORT. What each shared operation does, once: the T register file, a bank, the STAT write, the status bits, and
the words of a bank. -/

namespace Sys2Proof.Machine

/-! ### The T register file -/

theorem State.readT_writeT_same (s : State) (r : BitVec 4) (v : Fx) (h : r.toNat < 8) :
    (s.writeT r v).readT r = v := by
  simp [State.readT, State.writeT, h]

theorem State.readT_writeT_ne (s : State) (r d : BitVec 4) (v : Fx) (h : r ≠ d) :
    (s.writeT d v).readT r = s.readT r := by
  have hn : d.toNat ≠ r.toNat := fun e => h (BitVec.eq_of_toNat_eq e.symm)
  simp [State.readT, State.writeT, hn]

/-! ### The processors -/

theorem State.cpu_modifyCpu_same (s : State) (p : Nat) (f : Cpu → Cpu) (h : p < s.cpus.length) :
    (s.modifyCpu p f).cpu p = f (s.cpu p) := by
  simp [State.cpu, List.getElem?_eq_getElem h]

theorem State.cpu_modifyCpu_ne (s : State) (p q : Nat) (f : Cpu → Cpu) (h : q ≠ p) :
    (s.modifyCpu p f).cpu q = s.cpu q := by
  simp [State.cpu, h.symm]

theorem State.length_modifyCpu (s : State) (p : Nat) (f : Cpu → Cpu) :
    (s.modifyCpu p f).cpus.length = s.cpus.length := by
  simp

/-- A change that keeps a projection of every processor keeps it at every processor. -/
theorem State.cpu_modifyCpu_proj {α : Type} (g : Cpu → α) (s : State) (p q : Nat) (f : Cpu → Cpu)
    (h : ∀ u, g (f u) = g u) : g ((s.modifyCpu p f).cpu q) = g (s.cpu q) := by
  by_cases hq : q = p
  · subst hq
    by_cases hl : q < s.cpus.length
    · rw [State.cpu_modifyCpu_same s q f hl, h]
    · simp [State.cpu, List.getElem?_eq_none (Nat.le_of_not_lt hl)]
  · rw [State.cpu_modifyCpu_ne s p q f hq]

theorem State.port_modifyPort (s : State) (f : Port → Port) (h : Issued s) :
    (s.modifyPort f).port = f s.port := by
  have := State.cpu_modifyCpu_same s s.issue.bank (fun u => { u with port := f u.port }) h
  simp only [State.port, State.self, State.modifyPort, State.modifyCpu_issue]
  rw [this]

theorem State.interp_modifyInterp (s : State) (f : Interp → Interp) (h : Issued s) :
    (s.modifyInterp f).self.interp = f s.self.interp := by
  have := State.cpu_modifyCpu_same s s.issue.bank (fun u => { u with interp := f u.interp }) h
  simp only [State.self, State.modifyInterp, State.modifyCpu_issue]
  rw [this]

theorem State.port_modifyInterp (s : State) (f : Interp → Interp) (p : Nat) :
    ((s.modifyInterp f).cpu p).port = (s.cpu p).port :=
  State.cpu_modifyCpu_proj Cpu.port s s.issue.bank p _ fun _ => rfl

theorem State.interp_modifyPort (s : State) (f : Port → Port) (p : Nat) :
    ((s.modifyPort f).cpu p).interp = (s.cpu p).interp :=
  State.cpu_modifyCpu_proj Cpu.interp s s.issue.bank p _ fun _ => rfl

theorem State.issued_modifyPort (s : State) (f : Port → Port) (h : Issued s) : Issued (s.modifyPort f) := by
  simpa [Issued] using h

theorem State.issued_modifyInterp (s : State) (f : Interp → Interp) (h : Issued s) : Issued (s.modifyInterp f) := by
  simpa [Issued] using h

/-! ### The words of the banks -/

/-- A change of the issuing bank that keeps every register but those at the listed offsets keeps every word but
those. -/
theorem portsKept_modifyPort (s : State) (f : Port → Port) (written : List Nat)
    (h : ∀ o r, regAt o = some r → o ∉ written → ∀ q, (f q).read r = q.read r) :
    PortsKept s (s.modifyPort f) written := by
  intro addr ha
  simp only [portRead]
  cases hr : regAt (offsetOf addr) with
  | none => rfl
  | some r =>
    by_cases hb : bankOf addr = s.issue.bank
    · exact State.cpu_modifyCpu_proj (fun u => u.port.read r) s s.issue.bank _ _ fun u => h _ _ hr (ha hb) u.port
    · show ((s.modifyCpu _ _).cpu (bankOf addr)).port.read r = _
      rw [State.cpu_modifyCpu_ne _ _ _ _ hb]

theorem PortsKept.trans {s t u : State} {x y : List Nat} (h : PortsKept s t x) (hi : t.issue = s.issue)
    (k : PortsKept t u y) : PortsKept s u (x ++ y) := by
  intro addr ha
  rw [k addr (by rw [hi]; intro hb hm; exact ha hb (List.mem_append.2 (.inr hm))),
    h addr fun hb hm => ha hb (List.mem_append.2 (.inl hm))]

/-! ### The STAT write -/

theorem State.stat_finish (s : State) (f : CmdFlags) (h : Issued s) : StatIs (s.finish f) f := by
  simp only [StatIs, State.finish, State.modifyPort_clock]
  rw [State.port_modifyPort _ _ h]

theorem State.drive_finish (s : State) (f : CmdFlags) : SameDrive s (s.finish f) :=
  ⟨rfl, rfl, rfl, rfl, by simp [State.finish]⟩

theorem State.interps_finish (s : State) (f : CmdFlags) : InterpsKept s (s.finish f) := by
  intro p
  exact State.interp_modifyPort s _ p

/-- The STAT write changes no word but STAT. -/
theorem State.ports_finish (s : State) (f : CmdFlags) : PortsKept s (s.finish f) [0x01] := by
  refine portsKept_modifyPort s _ _ fun o r hr ho q => ?_
  have : r ≠ .stat := by
    rintro rfl
    apply ho
    have hm := List.lookup_eq_some_iff.1 hr
    obtain ⟨l₁, l₂, hl, -⟩ := hm
    have hmem : (o, PortReg.stat) ∈ portMap := by rw [hl]; simp
    revert hmem
    simp only [portMap]
    intro hmem
    simpa using hmem
  cases r <;> first | rfl | exact absurd rfl this

/-- What the end of a command does, whole: only the STAT of its bank changes. -/
theorem State.frame_finish (s : State) (f : CmdFlags) : PortOnly s (s.finish f) [0x01] :=
  ⟨⟨s.drive_finish f, s.ports_finish f, s.interps_finish f, ⟨rfl, rfl⟩⟩, rfl, rfl, rfl, rfl, rfl⟩

/-- The end of a command with legal register fields is the end of a completed command. -/
theorem State.completeIf_true (s t : State) : s.completeIf true t = t.complete := rfl

theorem State.completeIf_false (s t : State) : s.completeIf false t = s.raiseIllegal := rfl

/-! ### Status bits -/

theorem statusPos_lt (b : StatusBit) : statusPos b < 16 := by cases b <;> decide

theorem statusPos_inj (a b : StatusBit) (h : statusPos a = statusPos b) : a = b := by
  cases a <;> cases b <;> first | rfl | (simp [statusPos] at h)

theorem statusHas_put_same (w : BitVec 16) (b : StatusBit) (v : Bool) : statusHas (statusPut w b v) b = v := by
  have h := statusPos_lt b
  cases v <;> simp [statusHas, statusPut, h]

theorem statusHas_put_ne (w : BitVec 16) (a b : StatusBit) (v : Bool) (h : a ≠ b) :
    statusHas (statusPut w b v) a = statusHas w a := by
  have hn : statusPos a ≠ statusPos b := fun e => h (statusPos_inj a b e)
  have ha := statusPos_lt a
  cases v <;> simp [statusHas, statusPut, ha]
  · intro _
    omega
  · intro _ _
    omega

@[simp] theorem Clock.has_put_same (k : Clock) (b : StatusBit) (v : Bool) : (k.put b v).has b = v :=
  statusHas_put_same k.status b v

theorem Clock.has_put_ne (k : Clock) (a b : StatusBit) (v : Bool) (h : a ≠ b) : (k.put b v).has a = k.has a :=
  statusHas_put_ne k.status a b v h

end Sys2Proof.Machine
end

