-- ==== Sys2Proof/Laws/Port.lean ====
section
/-! SUPPORT. The port: which indices lie in it, the word map, what a write of a register does, and the bits of STAT
(20_memory.md R90 to R94, 30_encoding.md R129). -/

namespace Sys2Proof.Machine

/-! ### The port space -/

theorem inPortSpace_iff (s : State) (addr : Nat) : inPortSpace s addr = true ↔ addr < 128 * s.cfg.ncpu := by
  rw [inPortSpace, decide_eq_true_iff, bankOf, Nat.div_lt_iff_lt_mul (by decide : 0 < bankWords), Nat.mul_comm]

/-- The word map and the lookup agree. -/
theorem regAt_eq_some (o : Nat) (r : PortReg) : regAt o = some r ↔ (o, r) ∈ portMap := by
  constructor
  · intro h
    obtain ⟨l₁, l₂, hl, -⟩ := List.lookup_eq_some_iff.1 h
    rw [hl]
    simp
  · intro h
    have hall : ∀ p ∈ portMap, regAt p.1 = some p.2 := by decide
    exact hall _ h

theorem regAt_eq_none (o : Nat) : regAt o = none ↔ ∀ r, (o, r) ∉ portMap := by
  simp only [← regAt_eq_some]
  cases regAt o <;> simp

/-- CMD is the word at offset 0, and only there. -/
theorem regAt_eq_cmd (o : Nat) : regAt o = some .cmd ↔ o = 0 := by
  rw [regAt_eq_some]
  simp [portMap]

/-- No register stands at two offsets. -/
theorem regAt_inj (o o' : Nat) (r : PortReg) (h : regAt o = some r) (h' : regAt o' = some r) : o = o' := by
  have hall : ∀ p ∈ portMap, ∀ p' ∈ portMap, p.2 = p'.2 → p.1 = p'.1 := by decide
  exact hall _ ((regAt_eq_some o r).1 h) _ ((regAt_eq_some o' r).1 h') rfl

/-- The registers a write stores to: ARG and REQ (20_memory.md R92). -/
def isStored (o : Nat) : Prop := 2 ≤ o ∧ o ≤ 5 ∨ 0x10 ≤ o ∧ o ≤ 0x19

/-- What a write of a register does: a stored one takes the value and leaves the others, any other ignores it
(R94). -/
theorem Port.write_spec (o : Nat) (r : PortReg) (v : Word) (h : regAt o = some r) :
    isStored o ∧ (∀ q : Port, (q.write v r).read r = v ∧ ∀ r', r' ≠ r → (q.write v r).read r' = q.read r') ∨
      ¬isStored o ∧ ∀ q : Port, q.write v r = q := by
  have hm := (regAt_eq_some o r).1 h
  cases r <;> simp [portMap] at hm <;> subst hm <;> simp [isStored, Port.write] <;>
    refine fun q => ⟨rfl, fun r' hr' => ?_⟩ <;> cases r' <;> first | rfl | exact absurd rfl hr'

/-! ### The bits of STAT -/

theorem statWord_getLsbD (k : Clock) (f : CmdFlags) (i : Nat) :
    (statWord k f).getLsbD i =
      if i < 3 then (syncClass k).getLsbD i
      else if i = 4 then f.denied
      else if i = 5 then f.illegal
      else if i = 6 then f.mono
      else if i = 7 then secPending k
      else false := by
  show BitVec.getLsbD (w := 24 + 1 + 1 + 1 + 1 + 1 + 3)
    (0#24 ++ BitVec.ofBool (secPending k) ++ BitVec.ofBool f.mono ++ BitVec.ofBool f.illegal ++
      BitVec.ofBool f.denied ++ 0#1 ++ syncClass k) i = _
  simp only [BitVec.getLsbD_append, BitVec.getLsbD_ofBool]
  split_ifs <;> first | rfl | omega | simp_all

/-! ### Every command completes -/

theorem exec_next (i : Instr) (s : State) : ∃ t, exec i s = .next t := by
  cases i <;> first | exact ⟨_, rfl⟩ | skip
  · unfold exec execAdjt
    simp only
    split <;> exact ⟨_, rfl⟩
  · unfold exec execSett
    simp only
    split <;> exact ⟨_, rfl⟩

end Sys2Proof.Machine
end

