-- ==== Sys2Proof/Laws/Frames.lean ====
section
/-! SUPPORT. What a command leaves, by the shape of its end: a change of shared state followed by the STAT write, and a
change of the bank followed by the STAT write (10_state.md R86, 30_encoding.md R129). -/

namespace Sys2Proof.Machine

/-- The table of readable words agrees with the word map (20_memory.md R92). -/
theorem readableWords_spec (q : Port) (word : Nat × Word) (h : word ∈ readableWords q) :
    ∃ r, regAt word.1 = some r ∧ q.read r = word.2 := by
  simp only [readableWords, List.mem_cons, List.not_mem_nil, or_false] at h
  repeat' (rcases h with rfl | h; · exact ⟨_, rfl, rfl⟩)

/-- The table of writable words agrees with the word map (20_memory.md R92, R94). -/
theorem writableWords_spec (v : Word) (word : Nat × (Port → Port)) (h : word ∈ writableWords v) :
    ∃ r, regAt word.1 = some r ∧ ∀ q, word.2 q = q.write v r := by
  simp only [writableWords, List.mem_cons, List.not_mem_nil, or_false] at h
  repeat' (rcases h with rfl | h; · exact ⟨_, rfl, fun _ => rfl⟩)

/-- The offsets of reserved words (20_memory.md R92). -/
theorem regAt_reserved (o : Nat) (h : 0x0A ≤ o ∧ o ≤ 0x0F ∨ 0x1A ≤ o ∧ o ≤ 0x1F ∨ 0x44 ≤ o) : regAt o = none := by
  rw [regAt_eq_none]
  intro r hm
  have hall : ∀ e ∈ portMap, ¬(0x0A ≤ e.1 ∧ e.1 ≤ 0x0F ∨ 0x1A ≤ e.1 ∧ e.1 ≤ 0x1F ∨ 0x44 ≤ e.1) := by decide
  exact hall _ hm h

/-- A command that changes no bank before its STAT write. -/
theorem bankFrame_finish {s u : State} (f : CmdFlags) (hcfg : u.cfg = s.cfg) (hissue : u.issue = s.issue)
    (hpending : u.pending = s.pending) (hreads : u.reads = s.reads) (hcpus : u.cpus = s.cpus)
    (hlast : LastKept s u) : BankFrame s (u.finish f) [0x01] := by
  have hcpu : ∀ p, u.cpu p = s.cpu p := fun p => by simp only [State.cpu, hcpus]
  refine ⟨⟨hcfg, hissue, hpending, hreads, ?_⟩, ?_, ?_, hlast⟩
  · rw [(State.drive_finish u f).banks, hcpus]
  · intro addr ha
    rw [State.ports_finish u f addr (by rw [hissue]; exact ha)]
    simp only [portRead, hcpu]
  · intro p
    rw [State.interps_finish u f p, hcpu]

/-- STAT after such a command. -/
theorem statIs_finish {s u : State} (f : CmdFlags) (hissue : u.issue = s.issue) (hcpus : u.cpus = s.cpus)
    (h : Issued s) : StatIs (u.finish f) f :=
  State.stat_finish u f (by simpa only [Issued, hissue, hcpus] using h)

/-- The registers of a bank that a change of it writes, by their offsets. -/
theorem portsKept_of_read (s : State) (f : Port → Port) (written : List Nat)
    (h : ∀ r, (∀ o, regAt o = some r → o ∉ written) → ∀ q, (f q).read r = q.read r) :
    PortsKept s (s.modifyPort f) written := by
  refine portsKept_modifyPort s f written fun o r hr ho q => h r (fun o' hr' => ?_) q
  rw [regAt_inj o' o r hr' hr]
  exact ho

/-- A command that changes its bank and then writes STAT. -/
theorem portOnly_finish (s : State) (f : Port → Port) (fl : CmdFlags) (written : List Nat)
    (h : PortsKept s (s.modifyPort f) written) : PortOnly s ((s.modifyPort f).finish fl) (written ++ [0x01]) := by
  refine ⟨⟨⟨rfl, rfl, rfl, rfl, by simp [State.finish]⟩, ?_, ?_, ⟨rfl, rfl⟩⟩, rfl, rfl, rfl, rfl, rfl⟩
  · exact h.trans rfl (State.ports_finish _ fl)
  · intro p
    rw [State.interps_finish _ fl p, State.interp_modifyPort s f p]

/-- The bank after a change of it and the STAT write. -/
theorem port_modifyPort_finish (s : State) (f : Port → Port) (fl : CmdFlags) (h : Issued s) :
    ((s.modifyPort f).finish fl).port = { f s.port with stat := statWord s.clock fl } := by
  rw [State.finish, State.port_modifyPort _ _ (State.issued_modifyPort s f h), State.port_modifyPort s f h]
  rfl

/-- A bank's words after a longer list of writes read as after a shorter one. -/
theorem PortsKept.mono {s t : State} {x y : List Nat} (h : PortsKept s t x) (hx : ∀ o ∈ x, o ∈ y) :
    PortsKept s t y := fun addr ha => h addr fun hb hm => ha hb (hx _ hm)

theorem BankFrame.mono {s t : State} {x y : List Nat} (h : BankFrame s t x) (hx : ∀ o ∈ x, o ∈ y) :
    BankFrame s t y := ⟨h.drive, h.ports.mono hx, h.interps, h.last⟩

theorem PortOnly.mono {s t : State} {x y : List Nat} (h : PortOnly s t x) (hx : ∀ o ∈ x, o ∈ y) :
    PortOnly s t y := ⟨h.bank.mono hx, h.regs, h.clock, h.pps, h.mcnt, h.draws⟩

/-- An FX command that writes T[d]. -/
theorem tOnly_writeT (s : State) (d : BitVec 4) (v : Fx) : TOnly s (s.writeT d v).complete d :=
  ⟨bankFrame_finish _ rfl rfl rfl rfl rfl ⟨rfl, rfl⟩,
    fun r h => State.readT_writeT_ne s r d v h, rfl, rfl, rfl, rfl⟩

theorem readT_complete (s : State) (d : BitVec 4) (v : Fx) (h : d.toNat < 8) :
    (s.writeT d v).complete.readT d = v := State.readT_writeT_same s d v h

theorem statIs_writeT (s : State) (d : BitVec 4) (v : Fx) (h : Issued s) :
    StatIs (s.writeT d v).complete flagsNone := statIs_finish (s := s) _ rfl rfl h

/-- The end of a command whose register field is legal. -/
theorem State.completeIf_legal (s t : State) (legal : Bool) (h : legal = true) : s.completeIf legal t = t.complete := by
  rw [h, State.completeIf_true]

theorem regLegal_iff (r : BitVec 4) : regLegal r = true ↔ r.toNat < 8 := decide_eq_true_iff

end Sys2Proof.Machine
end

