-- ==== Sys2Proof/Laws/Control.lean ====
section
/-! SUPPORT. What a status bit write, HardUpdate and each write of ADJT leave alone (41_control.md R193 to R202,
43_pll_fll.md R272, R285). -/

namespace Sys2Proof.Machine

/-- A status bit write, bit by bit (00_scope.md R22). -/
theorem statusPut_getLsbD (w : BitVec 16) (b : StatusBit) (v : Bool) (n : Nat) :
    (statusPut w b v).getLsbD n = if n = statusPos b then v else w.getLsbD n := by
  have hp := statusPos_lt b
  by_cases hn : n = statusPos b
  · subst hn
    rw [if_pos rfl]
    exact statusHas_put_same w b v
  · rw [if_neg hn]
    cases v <;> simp only [statusPut, Bool.false_eq_true, if_false, if_true]
    · rw [BitVec.getLsbD_and, BitVec.getLsbD_not, BitVec.getLsbD_shiftLeft]
      by_cases h16 : n < 16
      · by_cases hl : n < statusPos b
        · simp [h16, hl]
        · simp [h16, hl]
          omega
      · simp [h16, BitVec.getLsbD_of_ge w n (Nat.le_of_not_lt h16)]
    · rw [BitVec.getLsbD_or, BitVec.getLsbD_shiftLeft]
      by_cases hl : n < statusPos b
      · simp [hl]
      · simp [hl]
        omega

/-- HardUpdate changes OFFSET, FREQ, REFTIME and STATUS.MODE and nothing else (43_pll_fll.md R285). -/
theorem hardUpdate_frame (c : Params) (k : Clock) (x : Int) :
    hardUpdate c k x =
      { k with
        offset := (hardUpdate c k x).offset
        freq := (hardUpdate c k x).freq
        reftime := (hardUpdate c k x).reftime
        status := (hardUpdate c k x).status } := by
  unfold hardUpdate loadOffset
  simp only
  split_ifs <;> rfl

theorem hardUpdate_status (c : Params) (k : Clock) (x : Int) (n : Nat) (h : n ≠ 14) :
    (hardUpdate c k x).status.getLsbD n = k.status.getLsbD n := by
  unfold hardUpdate loadOffset
  simp only
  split_ifs <;> first | rfl | exact (statusPut_getLsbD _ _ _ _).trans (if_neg h)

/-- A mode bit is a bit of REQ_MODES. -/
theorem modeHas_eq (r : Req) (b : ModeBit) : modeHas r b = r.modes.getLsbD (modePos b) := by
  simp only [modeHas, modesOf, BitVec.getLsbD_setWidth]
  cases b <;> simp [modePos]

/-! ### The writes of ADJT before the estimator -/

/-- The clock the estimator sees: every write of ADJT before the offset write (41_control.md R190). -/
def adjustEarly (c : Params) (r : Req) (k : Clock) : Clock :=
  writeSource r <| writeResolution r <| writeConstant c r <| writeStatus r <| disablePll r <| writeErrors r k

theorem adjustClock_eq (c : Params) (r : Req) (k : Clock) :
    adjustClock c r k = writeFrequency r (writeOffset c r (adjustEarly c r k)) := rfl

theorem writeSource_frame (r : Req) (k : Clock) :
    writeSource r k = { k with status := (writeSource r k).status } := by
  simp only [writeSource]
  split_ifs <;> rfl

theorem writeResolution_frame (r : Req) (k : Clock) :
    writeResolution r k = { k with status := (writeResolution r k).status } := by
  simp only [writeResolution]
  split_ifs <;> rfl

theorem writeStatus_frame (r : Req) (k : Clock) :
    writeStatus r k = { k with status := (writeStatus r k).status } := by
  simp only [writeStatus]
  split_ifs <;> rfl

theorem disablePll_frame (r : Req) (k : Clock) :
    disablePll r k =
      { k with
        state := if disablesPll r k then 0#3 else k.state
        status := (disablePll r k).status } := by
  simp only [disablePll]
  split_ifs <;> rfl

theorem adjustEarly_eq (c : Params) (r : Req) (k : Clock) :
    adjustEarly c r k =
      { k with
        maxerror := if modeHas r .maxerror then r.maxerror else k.maxerror
        esterror := if modeHas r .esterror then r.esterror else k.esterror
        state := if disablesPll r k then 0#3 else k.state
        tc := if modeHas r .timeconst then (clampInt r.constant.toInt 0 c.maxtc).toNat else k.tc
        tai := if modeHas r .tai then r.constant else k.tai
        status := (adjustEarly c r k).status } := by
  generalize hs : (adjustEarly c r k).status = st
  rw [adjustEarly, writeSource_frame] at hs ⊢
  simp only at hs
  rw [hs, writeResolution_frame, writeConstant, writeStatus_frame, disablePll_frame]
  rfl

theorem writeSource_status (r : Req) (k : Clock) (n : Nat) :
    (writeSource r k).status.getLsbD n =
      if n = 15 then (if modeHas r .clka then false else if modeHas r .clkb then true else k.status.getLsbD 15)
      else k.status.getLsbD n := by
  simp only [writeSource]
  split_ifs <;> (try simp only [Clock.put, statusPut_getLsbD, statusPos]) <;> simp_all

theorem writeResolution_status (r : Req) (k : Clock) (n : Nat) :
    (writeResolution r k).status.getLsbD n =
      if n = 13 then (if modeHas r .micro then false else if modeHas r .nano then true else k.status.getLsbD 13)
      else k.status.getLsbD n := by
  simp only [writeResolution]
  split_ifs <;> (try simp only [Clock.put, statusPut_getLsbD, statusPos]) <;> simp_all

theorem mask_hi (n : Nat) (h : n < 16) : (0xFF00#16).getLsbD n = decide (8 ≤ n) := by
  revert n
  decide

theorem mask_lo (n : Nat) (h : n < 16) : (0x00FF#16).getLsbD n = decide (n < 8) := by
  revert n
  decide

theorem writeStatus_status (r : Req) (k : Clock) (n : Nat) :
    (writeStatus r k).status.getLsbD n =
      if n < 8 ∧ modeHas r .status = true then r.status.getLsbD n else k.status.getLsbD n := by
  simp only [writeStatus]
  by_cases hm : modeHas r .status = true
  · rw [if_pos hm]
    by_cases hn : n < 16
    · simp only [BitVec.getLsbD_or, BitVec.getLsbD_and, BitVec.getLsbD_setWidth, mask_hi n hn, mask_lo n hn]
      by_cases h8 : n < 8
      · simp [h8, hm, hn, show ¬8 ≤ n by omega]
      · simp [h8, show 8 ≤ n by omega]
    · simp only [show ¬n < 8 by omega, false_and, if_false]
      rw [BitVec.getLsbD_of_ge _ _ (by omega), BitVec.getLsbD_of_ge _ _ (by omega)]
  · simp [hm]

theorem disablePll_status (r : Req) (k : Clock) (n : Nat) :
    (disablePll r k).status.getLsbD n = if disablesPll r k then decide (n = 6) else k.status.getLsbD n := by
  simp only [disablePll]
  split_ifs
  · by_cases hn : n < 16
    · have h6 : ∀ m, m < 16 → (0x0040#16).getLsbD m = decide (m = 6) := by decide
      exact h6 n hn
    · rw [BitVec.getLsbD_of_ge _ _ (by omega)]
      simp
      omega
  · rfl

/-- The status bits the estimator sees (41_control.md R194, R195, R199, R200). -/
theorem adjustEarly_status (c : Params) (r : Req) (k : Clock) (n : Nat) :
    (adjustEarly c r k).status.getLsbD n =
      if n = 15 then
        (if modeHas r .clka then false else if modeHas r .clkb then true else !disablesPll r k && k.status.getLsbD 15)
      else if n = 13 then
        (if modeHas r .micro then false else if modeHas r .nano then true else !disablesPll r k && k.status.getLsbD 13)
      else if n < 8 then (if modeHas r .status then r.status.getLsbD n else k.status.getLsbD n)
      else !disablesPll r k && k.status.getLsbD n := by
  have hd : disablesPll r (writeErrors r k) = disablesPll r k := rfl
  have hs : (writeErrors r k).status = k.status := rfl
  rw [adjustEarly, writeSource_status, writeResolution_status, writeResolution_status]
  simp only [writeConstant, writeStatus_status, disablePll_status, hd, hs]
  have himp : disablesPll r k = true → modeHas r .status = true := by
    intro h
    simp only [disablesPll, Bool.and_eq_true] at h
    exact h.1.1
  cases hdis : disablesPll r k
  · split_ifs <;> simp_all
  · have := himp hdis
    split_ifs <;> simp_all
    all_goals omega

/-- After the early writes ADJT changes OFFSET, FREQ, REFTIME and STATUS.MODE at most. -/
theorem adjustClock_frame (c : Params) (r : Req) (k : Clock) :
    adjustClock c r k =
      { adjustEarly c r k with
        offset := (adjustClock c r k).offset
        freq := (adjustClock c r k).freq
        reftime := (adjustClock c r k).reftime
        status := (adjustClock c r k).status } := by
  rw [adjustClock_eq, writeFrequency, writeOffset]
  split_ifs
  · rw [hardUpdate_frame]
  · rfl
  · exact hardUpdate_frame _ _ _
  · rfl

theorem adjustClock_status (c : Params) (r : Req) (k : Clock) (n : Nat) (h : n ≠ 14) :
    (adjustClock c r k).status.getLsbD n = (adjustEarly c r k).status.getLsbD n := by
  rw [adjustClock_eq, writeFrequency, writeOffset]
  split_ifs
  · exact hardUpdate_status _ _ _ _ h
  · rfl
  · exact hardUpdate_status _ _ _ _ h
  · rfl

end Sys2Proof.Machine
end

