-- ==== Sys2Proof/Laws/Encode.lean ====
section
/-! SUPPORT. The fields of an encoded word, and a word from its fields (30_encoding.md R121). -/

namespace Sys2Proof

theorem packFields_getLsbD (op : BitVec 8) (rd rs : BitVec 4) (sh : BitVec 6) (i : Nat) :
    (packFields op rd rs sh).getLsbD i =
      if i < 6 then sh.getLsbD i
      else if i < 16 then false
      else if i < 20 then rs.getLsbD (i - 16)
      else if i < 24 then rd.getLsbD (i - 20)
      else op.getLsbD (i - 24) := by
  show BitVec.getLsbD (w := 8 + 4 + 4 + 10 + 6) (op ++ rd ++ rs ++ 0#10 ++ sh) i = _
  simp only [BitVec.getLsbD_append]
  split_ifs <;> first | rfl | omega | simp

theorem fieldOp_pack (op : BitVec 8) (rd rs : BitVec 4) (sh : BitVec 6) : fieldOp (packFields op rd rs sh) = op := by
  apply BitVec.eq_of_getLsbD_eq
  intro i hi
  simp only [fieldOp, BitVec.getLsbD_extractLsb', packFields_getLsbD]
  simp [hi, show ¬24 + i < 6 by omega, show ¬24 + i < 16 by omega, show ¬24 + i < 20 by omega]

theorem fieldRd_pack (op : BitVec 8) (rd rs : BitVec 4) (sh : BitVec 6) : fieldRd (packFields op rd rs sh) = rd := by
  apply BitVec.eq_of_getLsbD_eq
  intro i hi
  simp only [fieldRd, BitVec.getLsbD_extractLsb', packFields_getLsbD]
  simp [hi, show ¬20 + i < 6 by omega, show ¬20 + i < 16 by omega, show 20 + i < 24 by omega]

theorem fieldRs_pack (op : BitVec 8) (rd rs : BitVec 4) (sh : BitVec 6) : fieldRs (packFields op rd rs sh) = rs := by
  apply BitVec.eq_of_getLsbD_eq
  intro i hi
  simp only [fieldRs, BitVec.getLsbD_extractLsb', packFields_getLsbD]
  simp [hi, show ¬16 + i < 6 by omega, show 16 + i < 20 by omega]

theorem fieldZ_pack (op : BitVec 8) (rd rs : BitVec 4) (sh : BitVec 6) : fieldZ (packFields op rd rs sh) = 0#10 := by
  apply BitVec.eq_of_getLsbD_eq
  intro i hi
  simp only [fieldZ, BitVec.getLsbD_extractLsb', packFields_getLsbD]
  simp [hi, show 6 + i < 16 by omega]

theorem fieldSh_pack (op : BitVec 8) (rd rs : BitVec 4) (sh : BitVec 6) : fieldSh (packFields op rd rs sh) = sh := by
  apply BitVec.eq_of_getLsbD_eq
  intro i hi
  simp only [fieldSh, BitVec.getLsbD_extractLsb', packFields_getLsbD]
  simp [hi]

theorem pack_fields (w : Word) (h : fieldZ w = 0#10) :
    packFields (fieldOp w) (fieldRd w) (fieldRs w) (fieldSh w) = w := by
  apply BitVec.eq_of_getLsbD_eq
  intro i hi
  have hz : ∀ j, j < 10 → w.getLsbD (6 + j) = false := by
    intro j hj
    have := congrArg (fun v => v.getLsbD j) h
    simpa [fieldZ, BitVec.getLsbD_extractLsb', hj] using this
  rw [packFields_getLsbD]
  simp only [fieldOp, fieldRd, fieldRs, fieldSh, BitVec.getLsbD_extractLsb']
  split_ifs with h1 h2 h3 h4
  · simp [h1]
  · rw [← hz (i - 6) (by omega)]; congr 1; omega
  · simp [show i - 16 < 4 by omega]; congr 1; omega
  · simp [show i - 20 < 4 by omega]; congr 1; omega
  · simp [show i - 24 < 8 by omega]; congr 1; omega

/-- A format gives a command exactly when its registers are legal and its unused fields are 0. -/
theorem formatted_eq {a b : Bool} {i j : Instr} (h : formatted a b i = .command j) : a = true ∧ b = true ∧ j = i := by
  cases a <;> cases b <;> simp_all [formatted]

end Sys2Proof
end

