-- ==== Sys2Proof/Laws/Fixed.lean ====
section
/-! SUPPORT. What each function of the fixed-point unit and each width function does to the integer it stands for
(00_scope.md R19, 40_fixedpoint.md R154 to R161). -/

namespace Sys2Proof.Machine

/-! ### Width functions -/

theorem clampInt_eq (x lo hi : Int) (h : lo ≤ hi) : clampInt x lo hi = max lo (min x hi) := by
  simp only [clampInt]
  split_ifs <;> omega

theorem wrap64_toInt (z : Int) (h : -9223372036854775808 ≤ z) (h' : z < 9223372036854775808) :
    (wrap64 z).toInt = z := by
  rw [wrap64, BitVec.toInt_ofInt]
  exact Int.bmod_eq_of_le (by simpa using h) (by simpa using h')

theorem wrap32_toInt (z : Int) (h : -2147483648 ≤ z) (h' : z < 2147483648) : (wrap32 z).toInt = z := by
  rw [wrap32, BitVec.toInt_ofInt]
  exact Int.bmod_eq_of_le (by simpa using h) (by simpa using h')

theorem toInt64_bounds (v : BitVec 64) : -9223372036854775808 ≤ v.toInt ∧ v.toInt < 9223372036854775808 :=
  ⟨by simpa using BitVec.le_toInt v, by simpa using BitVec.toInt_lt (x := v)⟩

theorem toInt32_bounds (v : BitVec 32) : -2147483648 ≤ v.toInt ∧ v.toInt < 2147483648 :=
  ⟨by simpa using BitVec.le_toInt v, by simpa using BitVec.toInt_lt (x := v)⟩

/-- A 64-bit value is its pattern. -/
theorem wrap64_of_toInt (v : BitVec 64) : wrap64 v.toInt = v := BitVec.ofInt_toInt

theorem wrap64_add (x y : Int) : wrap64 (x + y) = wrap64 x + wrap64 y := BitVec.ofInt_add x y

theorem wrap64_sub (x y : Int) : wrap64 (x - y) = wrap64 x - wrap64 y := by
  rw [Int.sub_eq_add_neg, wrap64_add, BitVec.sub_eq_add_neg, wrap64, wrap64, wrap64, BitVec.ofInt_neg]

theorem hiWord_toNat (v : BitVec 64) : (hiWord v).toNat = v.toNat / 4294967296 := by
  have h := v.isLt
  rw [hiWord, BitVec.extractLsb'_toNat, Nat.shiftRight_eq_div_pow]
  omega

theorem loWord_toNat (v : BitVec 64) : (loWord v).toNat = v.toNat % 4294967296 := by
  rw [loWord, BitVec.extractLsb'_toNat]
  rfl

theorem hiWord_toInt (v : BitVec 64) : (hiWord v).toInt = v.toInt / 4294967296 := by
  have h := v.isLt
  rw [BitVec.toInt_eq_toNat_cond, BitVec.toInt_eq_toNat_cond, hiWord_toNat]
  split_ifs <;> omega

/-! ### The functions of the unit -/

theorem fxGetInt_eq (a : Fx) : fxGetInt a = a.toInt / 4294967296 := hiWord_toInt a

/-- R159: HI = u32(i), LO = 0. -/
theorem fxLoadInt_eq (i : Int) : fxLoadInt i = wrap64 (i * 4294967296) := by
  apply BitVec.eq_of_toNat_eq
  rw [fxLoadInt, pairWord, BitVec.toNat_append, wrap32, wrap64, BitVec.toNat_ofInt, BitVec.toNat_ofInt]
  simp only [BitVec.toNat_ofNat, Nat.zero_mod, Nat.or_zero, Nat.shiftLeft_eq]
  omega

theorem fxLoadInt_toInt (i : Int) (h : -2147483648 ≤ i) (h' : i < 2147483648) :
    (fxLoadInt i).toInt = i * 4294967296 := by
  rw [fxLoadInt_eq]
  exact wrap64_toInt _ (by omega) (by omega)

theorem fxRsh_toInt (a : Fx) (n : Nat) (h : n < 64) : (fxRsh a n).toInt = a.toInt / 2 ^ n := by
  rw [fxRsh, if_pos h, BitVec.toInt_sshiftRight, Int.shiftRight_eq_div_pow]
  norm_cast

theorem fxRsh_eq (a : Fx) (n : Nat) (h : n < 64) : fxRsh a n = wrap64 (a.toInt / 2 ^ n) := by
  rw [← fxRsh_toInt a n h, wrap64_of_toInt]

theorem fxAdd_eq (a b : Fx) : fxAdd a b = wrap64 (a.toInt + b.toInt) := by
  rw [wrap64_add, wrap64_of_toInt, wrap64_of_toInt, fxAdd]

theorem fxSub_eq (a b : Fx) : fxSub a b = wrap64 (a.toInt - b.toInt) := by
  rw [wrap64_sub, wrap64_of_toInt, wrap64_of_toInt, fxSub]

/-- R161: the clamp in integers; the bound fits 64 bits. -/
theorem fxClampMag_toInt (a : Fx) (m : Int) (h : 0 ≤ m) (h' : m < 2147483648) :
    (fxClampMag a m).toInt = max (-(m * 4294967296)) (min a.toInt (m * 4294967296)) := by
  rw [fxClampMag, clampInt_eq _ _ _ (by show -m * 4294967296 ≤ m * 4294967296; omega)]
  have hb := toInt64_bounds a
  show (wrap64 (max (-m * 4294967296) (min a.toInt (m * 4294967296)))).toInt = _
  rw [wrap64_toInt _ (by omega) (by omega), Int.neg_mul]

end Sys2Proof.Machine
end

