-- ==== Sys2Proof/Laws/Estimator.lean ====
section
/-! SUPPORT. HardUpdate in integers (43_pll_fll.md R272 to R284). -/

namespace Sys2Proof.Machine

theorem clampSample_eq (x : Int) : clampSample x = max (-500000000) (min x 500000000) :=
  clampInt_eq x _ _ (by decide)

theorem clampSample_bounds (x : Int) : -500000000 ≤ clampSample x ∧ clampSample x ≤ 500000000 := by
  rw [clampSample_eq]
  omega

/-- A loaded sample is exact (R274). -/
theorem fxLoadInt_clampSample (x : Int) : (fxLoadInt (clampSample x)).toInt = clampSample x * 4294967296 := by
  have h := clampSample_bounds x
  exact fxLoadInt_toInt _ (by omega) (by omega)

/-- The PLL term before its wrap (R279). -/
theorem pllTerm_eq (c : Params) (k : Clock) (x : Int) (e : Nat) (h : 2 * (c.pllGain + k.tc) < 64) :
    pllTerm c k (clampSample x) e =
      wrap64 (clampSample x * 4294967296 / 2 ^ (2 * (c.pllGain + k.tc)) * e) := by
  rw [pllTerm, fxMul, fxRsh_toInt _ _ h, fxLoadInt_clampSample]

/-- The truncated quotient of the FLL term fits 32 bits once e is at least 4 (R281). -/
theorem fllQuotient_bounds (x : Int) (e : Nat) (h : 4 ≤ e) :
    -2000000000 ≤ (clampSample x * 16).tdiv e ∧ (clampSample x * 16).tdiv e ≤ 2000000000 := by
  have hb := clampSample_bounds x
  generalize clampSample x = m at hb
  have he : (4 : Int) ≤ e := by exact_mod_cast h
  rcases Int.le_total 0 (m * 16) with h0 | h0
  · rw [Int.tdiv_eq_ediv_of_nonneg h0]
    have h1 := Int.ediv_nonneg h0 (show (0 : Int) ≤ e by omega)
    have h2 : m * 16 / e ≤ 2000000000 := by
      have : m * 16 / e < 2000000001 := Int.ediv_lt_of_lt_mul (by omega) (by nlinarith)
      omega
    omega
  · have h1 : (m * 16).tdiv e = -((-(m * 16)) / e) := by
      rw [← Int.tdiv_eq_ediv_of_nonneg (show 0 ≤ -(m * 16) by omega), Int.neg_tdiv, Int.neg_neg]
    have h2 := Int.ediv_nonneg (show 0 ≤ -(m * 16) by omega) (show (0 : Int) ≤ e by omega)
    have h3 : -(m * 16) / e ≤ 2000000000 := by
      have : -(m * 16) / e < 2000000001 := Int.ediv_lt_of_lt_mul (by omega) (by nlinarith)
      omega
    omega

/-- The FLL term (R281). -/
theorem fllTerm_eq (c : Params) (x : Int) (e : Nat) (h : 4 ≤ e) (hc : c.fllGain + 4 < 64) :
    fllTerm c (clampSample x) e =
      wrap64 ((clampSample x * 16).tdiv e * 4294967296 / 2 ^ (c.fllGain + 4)) := by
  have hb := fllQuotient_bounds x e h
  rw [fllTerm, fxRsh_eq _ _ hc, fxLoadInt_toInt _ (by omega) (by omega)]

/-- The frequency before the clamp (R280, R281). -/
theorem updatedFreq_eq (c : Params) (k : Clock) (x : Int) (h : 2 * (c.pllGain + k.tc) < 64) (hc : c.fllGain + 4 < 64)
    (hm : 4 ≤ c.minsec) :
    updatedFreq c k (clampSample x) =
      wrap64 (k.freq.toInt + clampSample x * 4294967296 / 2 ^ (2 * (c.pllGain + k.tc)) * updateElapsed k +
        if fllEligible c k (updateElapsed k) then
          (clampSample x * 16).tdiv (updateElapsed k) * 4294967296 / 2 ^ (c.fllGain + 4)
        else 0) := by
  simp only [updatedFreq]
  rw [pllTerm_eq c k x _ h]
  split_ifs with hf
  · have he : 4 ≤ updateElapsed k := by
      simp only [fllEligible, Bool.and_eq_true, decide_eq_true_eq] at hf
      omega
    rw [fllTerm_eq c x _ he hc, fxAdd, fxAdd, wrap64_add, wrap64_add, wrap64_of_toInt]
  · rw [fxAdd, Int.add_zero, wrap64_add, wrap64_of_toInt]

/-- e in integers (R277, R278). -/
theorem updateElapsed_eq (k : Clock) :
    (updateElapsed k : Int) =
      if k.has .freqhold || k.reftime == 0#64 then 0 else max (k.sec.toInt - k.reftime.toInt) 0 := by
  rw [updateElapsed, updateReference]
  split_ifs <;> omega

end Sys2Proof.Machine
end

