-- ==== Sys2Proof/Laws/Interpolator.lean ====
section
/-! SUPPORT. The arithmetic of CALIB and NOW (45_interpolator.md). -/

namespace Sys2Proof.Machine

/-- A sampled count has CW bits (R350). -/
theorem sampleCyc_toNat (c : Params) (x : BitVec 64) (h : c.cw ≤ 64) : (sampleCyc c x).toNat = x.toNat % 2 ^ c.cw := by
  have hp : 2 ^ c.cw ≤ 2 ^ 64 := Nat.pow_le_pow_right (by decide) h
  have hm : x.toNat % 2 ^ c.cw < 2 ^ c.cw := Nat.mod_lt _ (by positivity)
  rw [sampleCyc, BitVec.toNat_ofNat, Nat.mod_eq_of_lt (by omega)]

theorem sampleCyc_lt (c : Params) (x : BitVec 64) (h : c.cw ≤ 64) : (sampleCyc c x).toNat < 2 ^ c.cw := by
  rw [sampleCyc_toNat c x h]
  exact Nat.mod_lt _ (by positivity)

/-- A count difference is in [0, 2^CW - 1] (R358). -/
theorem cycDelta_bounds (c : Params) (x y : BitVec 64) : 0 ≤ cycDelta c x y ∧ cycDelta c x y < (2 ^ c.cw : Nat) := by
  have hp : (0 : Int) < (2 ^ c.cw : Nat) := by exact_mod_cast Nat.two_pow_pos c.cw
  exact ⟨Int.emod_nonneg _ hp.ne', Int.emod_lt_of_pos _ hp⟩

/-- Reducing the present count first does not change the difference. -/
theorem cycDelta_sample (c : Params) (x y : BitVec 64) (h : c.cw ≤ 64) :
    cycDelta c (sampleCyc c x) y = ((x.toNat : Int) - y.toNat) % (2 ^ c.cw : Nat) := by
  rw [cycDelta, sampleCyc_toNat c x h, Int.natCast_mod, Int.emod_sub_emod]

/-- The interpolated offset lies in [0, one tick length] (R359). -/
theorem nowOffset_bounds (c : Params) (u : Interp) (mcnt now : BitVec 64) (h : u.initd = true → 0 ≤ u.num.toInt) :
    0 ≤ nowOffset c u mcnt now ∧ nowOffset c u mcnt now ≤ c.tickNs := by
  unfold nowOffset
  split
  · rename_i hi
    have h0 : 0 ≤ cycDelta c now mcnt * u.num.toInt / (u.den.toNat : Int) :=
      Int.ediv_nonneg (Int.mul_nonneg (cycDelta_bounds c now mcnt).1 (h hi)) (by omega)
    omega
  · omega

/-- What NOW returns, in nanoseconds (R360, R361). -/
theorem nowOut_eq (cand last : Int) :
    nowOut cand last = if cand ≤ last ∧ last - cand ≤ 1000000000 then last + 1 else cand := by
  simp only [nowOut, nowHeld, nanosecond, Bool.and_eq_true, decide_eq_true_eq]

/-- A timestamp from its two registers (R363). -/
theorem totalNs_split (out : Int) (h : -9223372036854775808 ≤ out / 1000000000)
    (h' : out / 1000000000 < 9223372036854775808) :
    totalNs (wrap64 (out / nanosecond)) (wrap32 (out % nanosecond)) = out := by
  simp only [totalNs, nanosecond]
  rw [wrap64_toInt _ h h', wrap32_toInt _ (by omega) (by omega)]
  omega

/-- The nanosecond register NOW writes (10_state.md R75). -/
theorem nowNsec_toInt (out : Int) : (wrap32 (out % nanosecond)).toInt = out % 1000000000 := by
  simp only [nanosecond]
  exact wrap32_toInt _ (by omega) (by omega)

/-- The ratio after a CALIB that is not the first (R354). -/
theorem calibRatio_later (c : Params) (k : Clock) (u : Interp) (now : BitVec 64) (h : u.initd = true) :
    calibRatio c k u now =
      if 0 < calibNum k u ∧ calibNum k u ≤ 9223372036854775807 ∧ 0 < cycDelta c now u.scnt then
        { u with num := wrap64 (calibNum k u), den := wrap64 (cycDelta c now u.scnt) }
      else u := by
  simp only [calibRatio, h, Bool.not_true, Bool.false_eq_true, if_false]

end Sys2Proof.Machine
end

