-- ==== Sys2Proof/Laws/PerInstr.lean ====
section
/-! SUPPORT. Statements about every command, one lemma per constructor. -/

namespace Sys2Proof.Laws.EncodeOpcode

/-- The operation code of a command, as the opcode map lists it (30_encoding.md R125). -/
def opcode : Instr → Nat
  | .fxadd _ _ => 0x01
  | .fxsub _ _ => 0x02
  | .fxneg _ => 0x03
  | .fxrsh _ _ => 0x04
  | .fxmul _ => 0x05
  | .fxlint _ => 0x06
  | .fxgint _ => 0x07
  | .fxclr _ => 0x08
  | .fxld _ => 0x09
  | .fxst _ => 0x0A
  | .adjt => 0x10
  | .gett => 0x11
  | .tick => 0x20
  | .secovf => 0x21
  | .sett => 0x22
  | .hupd => 0x30
  | .hpps => 0x40
  | .calib => 0x50
  | .now => 0x51

/-- Bits 31:24 of the encoding are the command's operation code and bits 15:6 are 0, whatever the operands. -/
def Statement (i : Instr) : Prop := (fieldOp (encode i)).toNat = opcode i ∧ fieldZ (encode i) = 0#10

theorem fxadd (rd rs : BitVec 4) : Statement (.fxadd rd rs) := by
  simp [Statement, encode, opcode, fieldOp_pack, fieldZ_pack]
theorem fxsub (rd rs : BitVec 4) : Statement (.fxsub rd rs) := by
  simp [Statement, encode, opcode, fieldOp_pack, fieldZ_pack]
theorem fxneg (rd : BitVec 4) : Statement (.fxneg rd) := by
  simp [Statement, encode, opcode, fieldOp_pack, fieldZ_pack]
theorem fxrsh (rd : BitVec 4) (sh : BitVec 6) : Statement (.fxrsh rd sh) := by
  simp [Statement, encode, opcode, fieldOp_pack, fieldZ_pack]
theorem fxmul (rd : BitVec 4) : Statement (.fxmul rd) := by
  simp [Statement, encode, opcode, fieldOp_pack, fieldZ_pack]
theorem fxlint (rd : BitVec 4) : Statement (.fxlint rd) := by
  simp [Statement, encode, opcode, fieldOp_pack, fieldZ_pack]
theorem fxgint (rs : BitVec 4) : Statement (.fxgint rs) := by
  simp [Statement, encode, opcode, fieldOp_pack, fieldZ_pack]
theorem fxclr (rd : BitVec 4) : Statement (.fxclr rd) := by
  simp [Statement, encode, opcode, fieldOp_pack, fieldZ_pack]
theorem fxld (rd : BitVec 4) : Statement (.fxld rd) := by
  simp [Statement, encode, opcode, fieldOp_pack, fieldZ_pack]
theorem fxst (rs : BitVec 4) : Statement (.fxst rs) := by
  simp [Statement, encode, opcode, fieldOp_pack, fieldZ_pack]
theorem adjt : Statement .adjt := ⟨rfl, rfl⟩
theorem gett : Statement .gett := ⟨rfl, rfl⟩
theorem tick : Statement .tick := ⟨rfl, rfl⟩
theorem secovf : Statement .secovf := ⟨rfl, rfl⟩
theorem sett : Statement .sett := ⟨rfl, rfl⟩
theorem hupd : Statement .hupd := ⟨rfl, rfl⟩
theorem hpps : Statement .hpps := ⟨rfl, rfl⟩
theorem calib : Statement .calib := ⟨rfl, rfl⟩
theorem now : Statement .now := ⟨rfl, rfl⟩

end Sys2Proof.Laws.EncodeOpcode
end

