-- ==== Sys2Proof/Laws/Pps.lean ====
section
/-! SUPPORT. What the stages of HPPS leave, in the words of Safety (44_pps.md). -/

namespace Sys2Proof.Machine

theorem fitS64_toInt (z : Int) (free : BitVec 64) (h : FitsS64 z) : (fitS64 z free).toInt = z := by
  unfold fitS64
  rw [if_pos ⟨h.1, h.2⟩, wrap64_toInt _ h.1 (by have := h.2; omega)]

theorem fitS32_toInt (z : Int) (free : BitVec 32) (h : FitsS32 z) : (fitS32 z free).toInt = z := by
  unfold fitS32
  rw [if_pos ⟨h.1, h.2⟩, wrap32_toInt _ h.1 (by have := h.2; omega)]

/-- The entry actions set bits 8 and 9 of STATUS and clear bits 10 and 11 (R304). -/
theorem entryStatus_eq (w : BitVec 16) : entryStatus w = (w &&& 0xF3FF#16) ||| 0x0300#16 := by
  apply BitVec.eq_of_getLsbD_eq
  intro i hi
  simp only [entryStatus, statusPut_getLsbD, statusPos, BitVec.getLsbD_or, BitVec.getLsbD_and]
  interval_cases i <;> simp

/-- The edge in the ARG registers, in integers (R301, R302). -/
theorem port_edge (s : State) : s.port.edge = s.edge := by
  have hw : ∀ v : BitVec 64, wrap64 (v.toInt + 1) = v + 1#64 := fun v => by rw [wrap64_add, wrap64_of_toInt]; rfl
  simp only [State.edge, Port.edge, normaliseEdge, Port.argPair, pairWord, hw]
  rw [clampInt_eq _ _ _ (by decide)]
  simp only [nanosecond, show (1000000000 : Int) - 1 = 999999999 from rfl]
  split_ifs <;> first | rfl | omega

/-- The filter state an HPPS works from (R303). -/
theorem ppsFirst_eq (s : State) : ppsFirst s.pps s.edge s.port.arg3 = s.ppsStart := by
  unfold ppsFirst State.ppsStart
  split <;> rfl

/-- The sum the machine forms is the one written out in integers (R310, R311). -/
theorem ppsSum_eq (s : State) :
    s.ppsStart.fcount.toInt + correctedDelta s.cfg (s.port.arg3.toInt - s.ppsStart.lastcount.toInt) = s.ppsSum := rfl

/-- What the first edge does not touch (R303). -/
theorem ppsStart_kept (s : State) :
    s.ppsStart.tfn0 = s.pps.tfn0 ∧ s.ppsStart.tfn1 = s.pps.tfn1 ∧ s.ppsStart.shift = s.pps.shift ∧
      s.ppsStart.shiftmax = s.pps.shiftmax ∧ s.ppsStart.jitter = s.pps.jitter ∧ s.ppsStart.freq = s.pps.freq ∧
      s.ppsStart.stabil = s.pps.stabil ∧ s.ppsStart.intcnt = s.pps.intcnt ∧ s.ppsStart.calcnt = s.pps.calcnt ∧
      s.ppsStart.errcnt = s.pps.errcnt ∧ s.ppsStart.stbcnt = s.pps.stbcnt ∧ s.ppsStart.jitcnt = s.pps.jitcnt := by
  unfold State.ppsStart
  split <;> simp

/-- The normalised fraction (R302). -/
theorem edge_bounds (s : State) : -500000000 ≤ s.edge.nsec ∧ s.edge.nsec ≤ 499999999 := by
  simp only [State.edge]
  split <;> dsimp only <;> omega

theorem isDuplicate_iff (s : State) : isDuplicate s.pps s.edge = true ↔ ¬s.edgeIsNew := by
  simp only [isDuplicate, State.edgeIsNew, Bool.and_eq_true, beq_iff_eq, not_or, ne_eq, not_not,
    Bool.not_eq_false]

theorem isGated_iff (s : State) : isGated (edgeStep s.pps s.edge) = true ↔ ¬s.edgePasses := by
  have m : maxFreq = 500000 := rfl
  unfold isGated edgeStep State.edgePasses
  rw [Bool.or_eq_true, decide_eq_true_iff, decide_eq_true_iff, m]
  constructor <;> intro h <;> omega

/-- The filter an HPPS leaves. -/
def State.hppsFilter (s : State) : Filter :=
  hardPps s.cfg ⟨s.clock, s.pps⟩ s.port.edge s.port.arg3 (ppsFree s.draws)

/-- The filter once the edge is recorded (R304, R307, R310). -/
def State.hppsRecorded (s : State) : Filter where
  clock := { s.clock with status := (s.clock.status &&& 0xF3FF#16) ||| 0x0300#16 }
  pps := { s.ppsRecorded with fcount := fitS64 s.ppsSum (ppsFree s.draws).fcount }

/-- The filter once an edge that passed the gate is filtered (R315 to R319). -/
def State.hppsFiltered (s : State) : Filter := filterPhase s.cfg s.hppsRecorded (ppsFree s.draws).jitter

theorem exec_hpps (s : State) :
    exec .hpps s = .next
      ({ s with clock := s.hppsFilter.clock, pps := s.hppsFilter.pps, draws := s.draws + 1 } : State).complete := rfl

theorem ppsFrame_hpps (s : State) (h : Issued s) :
    PpsFrame s
      ({ s with clock := s.hppsFilter.clock, pps := s.hppsFilter.pps, draws := s.draws + 1 } : State).complete :=
  ⟨bankFrame_finish _ rfl rfl rfl rfl rfl ⟨rfl, rfl⟩, rfl, rfl, rfl, statIs_finish (s := s) _ rfl rfl h⟩

/-- A duplicate: the entry actions alone (R305). -/
theorem hppsFilter_duplicate (s : State) (h : ¬s.edgeIsNew) :
    s.hppsFilter = ppsEntry s.cfg ⟨s.clock, s.pps⟩ s.edge s.port.arg3 := by
  simp only [State.hppsFilter, hardPps, port_edge]
  rw [if_pos ((isDuplicate_iff s).2 h)]

/-- A new edge: recorded, and then gated or filtered (R306). -/
theorem hppsFilter_new (s : State) (h : s.edgeIsNew) :
    s.hppsFilter =
      if isGated (edgeStep s.pps s.edge) then s.hppsRecorded
      else closeInterval s.cfg s.hppsFiltered s.edge (ppsFree s.draws).stabil := by
  have e :
      ({ ppsEntry s.cfg ⟨s.clock, s.pps⟩ s.port.edge s.port.arg3 with
        pps :=
          recordEdge s.cfg (ppsEntry s.cfg ⟨s.clock, s.pps⟩ s.port.edge s.port.arg3).pps s.port.edge s.port.arg3
            (ppsFree s.draws).fcount } : Filter) = s.hppsRecorded := by
    obtain ⟨h0, h1, -⟩ := ppsStart_kept s
    simp only [ppsEntry, recordEdge, port_edge, ppsFirst_eq, entryStatus_eq, State.hppsRecorded, State.ppsRecorded,
      ← ppsSum_eq, h0, h1]
    rfl
  simp only [State.hppsFilter, hardPps]
  rw [if_neg (by rw [port_edge, isDuplicate_iff]; exact not_not.2 h), e, port_edge]
  rfl

theorem hppsFilter_gated (s : State) (h : s.edgeIsNew) (hg : ¬s.edgePasses) : s.hppsFilter = s.hppsRecorded := by
  rw [hppsFilter_new s h, if_pos ((isGated_iff s).2 hg)]

theorem hppsFilter_passed (s : State) (h : s.edgeIsNew) (hg : s.edgePasses) :
    s.hppsFilter = closeInterval s.cfg s.hppsFiltered s.edge (ppsFree s.draws).stabil := by
  rw [hppsFilter_new s h, if_neg (by rw [isGated_iff]; exact not_not.2 hg)]

theorem recorded_window (s : State) :
    windowMedian s.hppsRecorded.pps = s.ppsMedian ∧ windowSpan s.hppsRecorded.pps = s.ppsSpan := by
  have hb := edge_bounds s
  have e : (BitVec.ofInt 32 s.edge.nsec).toInt = s.edge.nsec := wrap32_toInt _ (by omega) (by omega)
  simp only [windowMedian, windowSpan, State.ppsMedian, State.ppsSpan, State.hppsRecorded, State.ppsRecorded, e,
    and_self]

theorem isPopcorn_iff (s : State) : isPopcorn s.cfg s.hppsRecorded.pps = true ↔ s.ppsPopcorn := by
  have hj : s.hppsRecorded.pps.jitter = s.pps.jitter := (ppsStart_kept s).2.2.2.2.1
  simp only [isPopcorn, (recorded_window s).2, decide_eq_true_eq, State.ppsPopcorn, hj]

/-- What filtering leaves alone. -/
theorem filtered_kept (s : State) :
    s.hppsFiltered.clock =
        { s.clock with offset := s.hppsFiltered.clock.offset, status := s.hppsFiltered.clock.status } ∧
      s.hppsFiltered.pps =
        { s.ppsRecorded with
          fcount := fitS64 s.ppsSum (ppsFree s.draws).fcount
          jitcnt := s.hppsFiltered.pps.jitcnt
          jitter := s.hppsFiltered.pps.jitter } :=
  ⟨rfl, rfl⟩

/-- STATUS after filtering, but for PPSJITTER. -/
theorem filtered_status (s : State) :
    s.hppsFiltered.clock.status &&& 0xFDFF#16 = (s.clock.status &&& 0xF1FF#16) ||| 0x0100#16 := by
  apply BitVec.eq_of_getLsbD_eq
  intro i hi
  simp only [State.hppsFiltered, filterPhase, State.hppsRecorded, statusPut_getLsbD, statusPos, BitVec.getLsbD_and,
    BitVec.getLsbD_or]
  interval_cases i <;> simp

/-- A STATUS bit other than 8 to 11 is as before. -/
theorem filtered_has (s : State) (b : StatusBit) (h : statusPos b < 8) :
    s.hppsFiltered.clock.has b = s.clock.has b := by
  simp only [State.hppsFiltered, filterPhase, State.hppsRecorded, Clock.has, statusHas, statusPut_getLsbD,
    BitVec.getLsbD_or, BitVec.getLsbD_and]
  cases b <;> simp_all [statusPos]

/-- The offset after filtering (R317, R318). -/
theorem filtered_offset (s : State) :
    (¬s.ppsPopcorn → s.clock.has .ppstime = true → s.hppsFiltered.clock.offset = fxLoadInt (-s.ppsMedian)) ∧
      (s.ppsPopcorn ∨ s.clock.has .ppstime = false → s.hppsFiltered.clock.offset = s.clock.offset) := by
  have ht : s.hppsRecorded.clock.has .ppstime = s.clock.has .ppstime := by
    simp [State.hppsRecorded, Clock.has, statusHas, statusPos]
  have hm := (recorded_window s).1
  simp only [State.hppsFiltered, filterPhase, hm, ht]
  constructor
  · intro hp h
    have hq : isPopcorn s.cfg s.hppsRecorded.pps = false := by rw [← Bool.not_eq_true, isPopcorn_iff]; exact hp
    simp only [hq, h, Bool.not_false, Bool.and_self, if_true]
  · intro hp
    rw [if_neg]
    · rfl
    · rcases hp with hp | hp
      · rw [(isPopcorn_iff s).2 hp]; simp
      · rw [hp]; simp

/-- The rejection count and the flag (R317). -/
theorem filtered_popcorn (s : State) :
    (s.ppsPopcorn → s.hppsFiltered.pps.jitcnt = s.pps.jitcnt + 1#32) ∧
      (¬s.ppsPopcorn → s.hppsFiltered.pps.jitcnt = s.pps.jitcnt) ∧
      (s.hppsFiltered.clock.has .ppsjitter = true ↔ s.ppsPopcorn) := by
  have hj : s.hppsRecorded.pps.jitcnt = s.pps.jitcnt := (ppsStart_kept s).2.2.2.2.2.2.2.2.2.2.2
  refine ⟨fun hp => ?_, fun hp => ?_, ?_⟩
  · simp only [State.hppsFiltered, filterPhase]
    rw [if_pos ((isPopcorn_iff s).2 hp), hj]
  · simp only [State.hppsFiltered, filterPhase]
    rw [if_neg (by rw [isPopcorn_iff]; exact hp), hj]
  · simp only [State.hppsFiltered, filterPhase, Clock.has, statusHas_put_same]
    exact isPopcorn_iff s

/-- The jitter average (R319). -/
theorem filtered_jitter (s : State) (h : FitsS32 s.ppsJitter) :
    s.hppsFiltered.pps.jitter.toInt = s.ppsJitter := by
  have hj : s.hppsRecorded.pps.jitter = s.pps.jitter := (ppsStart_kept s).2.2.2.2.1
  simp only [State.hppsFiltered, filterPhase, decayJitter, (recorded_window s).2, hj]
  exact fitS32_toInt _ _ h

/-- The sum the interval test sees (R310). -/
theorem filtered_fcount (s : State) (h : FitsS64 s.ppsSum) : s.hppsFiltered.pps.fcount.toInt = s.ppsSum :=
  fitS64_toInt _ _ h

/-- The seconds and the shift the interval test sees (R321). -/
theorem filtered_interval (s : State) :
    intervalElapsed s.hppsFiltered.pps s.edge = s.ppsElapsed ∧ s.hppsFiltered.pps.shift = s.pps.shift :=
  ⟨rfl, (ppsStart_kept s).2.2.1⟩

/-- The three ends of an edge that passed the gate (R321, R323). -/
theorem closeInterval_open (c : Params) (f : Filter) (e : Edge) (free : BitVec 32)
    (h : intervalOpen f.pps e = true) : closeInterval c f e free = f := if_pos h

theorem closeInterval_bad (c : Params) (f : Filter) (e : Edge) (free : BitVec 32)
    (h : intervalOpen f.pps e = false) (hb : intervalBad f.pps e = true) :
    closeInterval c f e free = rejectInterval { f with pps := restartInterval f.pps e } := by
  simp only [closeInterval, h, hb, Bool.false_eq_true, if_false, if_true]

theorem closeInterval_good (c : Params) (f : Filter) (e : Edge) (free : BitVec 32)
    (h : intervalOpen f.pps e = false) (hb : intervalBad f.pps e = false) :
    closeInterval c f e free =
      acceptInterval c { f with pps := restartInterval f.pps e } f.pps.fcount.toInt free := by
  simp only [closeInterval, h, hb, Bool.false_eq_true, if_false]

/-- The up/down counter and the shift after an accepted interval (R327). -/
theorem adaptShift_eq (v : Pps) :
    adaptShift v =
      { v with
        intcnt :=
          if 4 ≤ v.intcnt then (if v.shift < v.shiftmax then 0 else 4)
          else if v.intcnt ≤ -4 ∨ v.shiftmax < v.shift then (if 2 < v.shift then 0 else -4)
          else v.intcnt
        shift :=
          if 4 ≤ v.intcnt ∧ v.shift < v.shiftmax then v.shift + 1
          else if (¬4 ≤ v.intcnt ∧ (v.intcnt ≤ -4 ∨ v.shiftmax < v.shift)) ∧ 2 < v.shift then v.shift - 1
          else v.shift } := by
  unfold adaptShift
  split_ifs <;> simp_all

/-- The median lies between the least and the greatest of any bounds on the three, and the span below their distance. -/
theorem median_bounds (a b c lo hi : Int) (ha : lo ≤ a ∧ a ≤ hi) (hb : lo ≤ b ∧ b ≤ hi) (hc : lo ≤ c ∧ c ≤ hi) :
    lo ≤ median3 a b c ∧ median3 a b c ≤ hi ∧ 0 ≤ span3 a b c ∧ span3 a b c ≤ hi - lo := by
  unfold median3 span3
  omega

/-- A decayed average lies between its old value and the new sample (R319, R329). -/
theorem decay_bounds (x y : Int) (n : Nat) : min x y ≤ x + (y - x) / 2 ^ n ∧ x + (y - x) / 2 ^ n ≤ max x y := by
  have hp : (0 : Int) < 2 ^ n := by positivity
  rcases le_total x y with h | h
  · have h0 : 0 ≤ (y - x) / 2 ^ n := Int.ediv_nonneg (by omega) hp.le
    have h1 : (y - x) / 2 ^ n ≤ y - x := Int.ediv_le_self _ (by omega)
    omega
  · have h0 : (y - x) / 2 ^ n ≤ 0 := by
      have := Int.ediv_le_ediv hp (show y - x ≤ 0 by omega)
      simpa using this
    have h1 : y - x ≤ (y - x) / 2 ^ n := by
      rw [Int.le_ediv_iff_mul_le hp]
      nlinarith [show (1 : Int) ≤ 2 ^ n from hp]
    omega

end Sys2Proof.Machine
end

