-- ==== Sys2Proof/Laws/TickSecond.lean ====
section
/-! SUPPORT. What each part of TICK and SECOVF changes, and the spent share in integers (42_tick_second.md R235 to R248). -/

namespace Sys2Proof.Machine

/-- Subtracting a loaded integer, in integers (R235). -/
theorem fxSub_fxLoadInt (a : Fx) (i : Int) : fxSub a (fxLoadInt i) = wrap64 (a.toInt - i * 4294967296) := by
  rw [fxSub, fxLoadInt_eq, wrap64_sub, wrap64_of_toInt]

/-- TICK on the clock: the remainder stays in PHASE and the carry enters NSEC (R234 to R236). -/
theorem tickAdjust_eq (c : Params) (k : Clock) (residualUs : Int) :
    tickAdjust c k residualUs =
      { k with
        phase := wrap64 ((k.phase + k.adj).toInt - (k.phase + k.adj).toInt / 4294967296 / c.hz * c.hz * 4294967296)
        nsec := wrap32 (k.nsec.toInt + (k.phase + k.adj).toInt / 4294967296 / c.hz + 1000 * residualUs) } := by
  simp only [tickAdjust, tickCarry, fxSub_fxLoadInt, fxGetInt_eq]
  rfl

theorem normaliseSecond_frame (k : Clock) :
    normaliseSecond k = { k with sec := (normaliseSecond k).sec, nsec := (normaliseSecond k).nsec } := by
  unfold normaliseSecond
  split <;> rfl

/-- The leap machine changes SEC, STATE and TAI at most (R242). -/
theorem leapStep_frame (k : Clock) :
    leapStep k = { k with sec := (leapStep k).sec, state := (leapStep k).state, tai := (leapStep k).tai } := by
  unfold leapStep
  split <;> (try split) <;> rfl

/-- STATE stays one of the five (R242). -/
theorem leapStep_state (k : Clock) : (leapStep k).state.toNat ≤ 4 := by
  unfold leapStep
  split <;> (try split) <;> simp_all <;> (repeat' split) <;> decide

theorem expireSignal_frame (k : Clock) (v : Pps) :
    expireSignal k v = { k with status := (expireSignal k v).status } := by
  unfold expireSignal
  split <;> rfl

/-- The clock before the spending step, apart from SEC, NSEC, STATE, TAI and MAXERROR (R240 to R242). -/
theorem beforeSpend_frame (c : Params) (k : Clock) :
    leapStep (growMaxerror c (normaliseSecond k)) =
      { k with
        sec := (leapStep (growMaxerror c (normaliseSecond k))).sec
        nsec := (normaliseSecond k).nsec
        state := (leapStep (growMaxerror c (normaliseSecond k))).state
        tai := (leapStep (growMaxerror c (normaliseSecond k))).tai
        maxerror := BitVec.ofNat 32 (k.maxerror.toNat + c.tolUs) } := by
  generalize hk : growMaxerror c (normaliseSecond k) = j
  rw [leapStep_frame, ← hk, growMaxerror, normaliseSecond_frame]

/-- The spent share and the new adjustment, in integers (R246, R247). -/
theorem spendOffset_eq (k : Clock) (sh : Nat) (h : sh < 64) :
    spendOffset k sh =
      { k with
        offset := wrap64 (k.offset.toInt - k.offset.toInt / 2 ^ sh)
        adj := wrap64 (k.offset.toInt / 2 ^ sh + k.freq.toInt + 1000000000 * 4294967296) } := by
  rw [spendOffset, fxSub_eq, fxRsh_toInt _ _ h, fxAdd, fxAdd, fxLoadInt_eq, fxRsh_eq _ _ h, wrap64_add, wrap64_add,
    wrap64_of_toInt]

/-- The shift SECOVF uses is read on the clock it starts from (R246). -/
theorem spendShift_beforeSpend (c : Params) (k : Clock) (v : Pps) :
    spendShift c (leapStep (growMaxerror c (normaliseSecond k))) v = spendShift c k v := by
  rw [beforeSpend_frame]
  rfl

/-- SECOVF's clock before the countdown: what the leap machine left, and the spending step on the old OFFSET and FREQ. -/
theorem secondClock_eq (c : Params) (k : Clock) (v : Pps) (h : spendShift c k v < 64) :
    secondClock c k v =
      { k with
        sec := (leapStep (growMaxerror c (normaliseSecond k))).sec
        nsec := (normaliseSecond k).nsec
        state := (leapStep (growMaxerror c (normaliseSecond k))).state
        tai := (leapStep (growMaxerror c (normaliseSecond k))).tai
        maxerror := BitVec.ofNat 32 (k.maxerror.toNat + c.tolUs)
        offset := wrap64 (k.offset.toInt - k.offset.toInt / 2 ^ spendShift c k v)
        adj := wrap64 (k.offset.toInt / 2 ^ spendShift c k v + k.freq.toInt + 1000000000 * 4294967296) } := by
  simp only [secondClock]
  rw [spendShift_beforeSpend, spendOffset_eq _ _ h]
  generalize (2 : Int) ^ spendShift c k v = p
  generalize hj : leapStep (growMaxerror c (normaliseSecond k)) = j
  have hf := beforeSpend_frame c k
  rw [hj] at hf
  rw [hf]

end Sys2Proof.Machine
end

