-- ==== Sys2Proof/Machine/Listing.lean ====
section
/-! DEFINITION. The listing syntax of the spec as port accesses: access lines, commands and the five
pseudo-instructions (30_encoding.md R131, R132, R133). -/

namespace Sys2Proof.Machine

/-- The processor an access belongs to and the inputs it presents: `.cpu p`, `.in CYC=v`, `.in PRIV=b` (R131). -/
structure LineContext where
  /-- p of `.cpu p`. -/
  cpu : Nat
  /-- v of `.in CYC=v`. -/
  cyc : BitVec 64
  /-- b of `.in PRIV=b`. -/
  priv : Bool
  deriving DecidableEq, Repr

/-- The offset of a register by name (20_memory.md R92). -/
def offsetOfReg (r : PortReg) : Nat := ((portMap.find? fun e => e.2 == r).map Prod.fst).getD 0

/-- One whole aligned access to a register of the processor's own bank (R131). -/
def lineAccess (x : LineContext) (r : PortReg) (k : AccessKind) : Access :=
  ⟨x.cpu * bankWords + offsetOfReg r, k, .word, x.cyc, x.priv⟩

/-- A line of a listing that makes accesses (R131, R133). -/
inductive Line where
  /-- `WR reg, value`. -/
  | wr (r : PortReg) (v : Word)
  /-- `RD reg`. -/
  | rd (r : PortReg)
  /-- `MNEMONIC operands`. -/
  | cmd (i : Instr)
  /-- `FXMOV Td, Ts` (d != s). -/
  | fxmov (d s : BitVec 4)
  /-- `FXLI Td, i`. -/
  | fxli (d : BitVec 4) (i : Word)
  /-- `FXLDI Td, v`. -/
  | fxldi (d : BitVec 4) (v : Fx)
  /-- `FXMULI Td, k`. -/
  | fxmuli (d : BitVec 4) (k : Word)
  /-- `FXLSH1 Td`. -/
  | fxlsh1 (d : BitVec 4)
  deriving DecidableEq, Repr

/-- The write of a register. -/
def wrAccess (x : LineContext) (r : PortReg) (v : Word) : Access := lineAccess x r (.write v)

/-- The write of a command's word to CMD (R131). -/
def cmdAccess (x : LineContext) (i : Instr) : Access := lineAccess x .cmd (.write (encode i))

/-- The accesses of a line, in order; a pseudo-instruction is its expansion (R133). -/
def Line.expand (x : LineContext) : Line → List Access
  | .wr r v => [wrAccess x r v]
  | .rd r => [lineAccess x r .read]
  | .cmd i => [cmdAccess x i]
  | .fxmov d s => [cmdAccess x (.fxclr d), cmdAccess x (.fxadd d s)]
  | .fxli d i => [wrAccess x .arg0 i, cmdAccess x (.fxlint d)]
  | .fxldi d v => [wrAccess x .arg0 (loWord v), wrAccess x .arg1 (hiWord v), cmdAccess x (.fxld d)]
  | .fxmuli d k => [wrAccess x .arg0 k, cmdAccess x (.fxmul d)]
  | .fxlsh1 d => [cmdAccess x (.fxadd d d)]

end Sys2Proof.Machine
end

