-- ==== Sys2Proof/Tests/Slice0.lean ====
section
/-! SUPPORT. Tests of one step or one word each. Words are written out from 30_encoding.md R121, R125 and R132; the
expected results are the vectors of 95_test_vectors.md, named in each comment. -/

namespace Sys2Proof.Tests

open Sys2Proof Sys2Proof.Machine

/-! ### Well-formedness: an ill-formed term for each register check -/

theorem test_wf_fxadd_rd : Instr.WellFormed (.fxadd 8#4 0#4) = false := by decide
theorem test_wf_fxadd_rs : Instr.WellFormed (.fxadd 0#4 15#4) = false := by decide
theorem test_wf_fxsub_rd : Instr.WellFormed (.fxsub 9#4 0#4) = false := by decide
theorem test_wf_fxsub_rs : Instr.WellFormed (.fxsub 0#4 8#4) = false := by decide
theorem test_wf_fxneg : Instr.WellFormed (.fxneg 8#4) = false := by decide
theorem test_wf_fxrsh : Instr.WellFormed (.fxrsh 8#4 1#6) = false := by decide
theorem test_wf_fxmul : Instr.WellFormed (.fxmul 8#4) = false := by decide
theorem test_wf_fxlint : Instr.WellFormed (.fxlint 8#4) = false := by decide
theorem test_wf_fxgint : Instr.WellFormed (.fxgint 8#4) = false := by decide
theorem test_wf_fxclr : Instr.WellFormed (.fxclr 8#4) = false := by decide
theorem test_wf_fxld : Instr.WellFormed (.fxld 8#4) = false := by decide
theorem test_wf_fxst : Instr.WellFormed (.fxst 8#4) = false := by decide
theorem test_wf_edge : Instr.WellFormed (.fxadd 7#4 7#4) = true := by decide

/-! ### Decoding: one word per command, bit by bit from OP, RD, RS, Z, SH -/

theorem test_decode_fxadd : decode 0x01120000#32 = .command (.fxadd 1#4 2#4) := by decide
theorem test_decode_fxsub : decode 0x02330000#32 = .command (.fxsub 3#4 3#4) := by decide
theorem test_decode_fxneg : decode 0x03600000#32 = .command (.fxneg 6#4) := by decide
theorem test_decode_fxrsh : decode 0x0410003F#32 = .command (.fxrsh 1#4 63#6) := by decide
theorem test_decode_fxmul : decode 0x05200000#32 = .command (.fxmul 2#4) := by decide
theorem test_decode_fxlint : decode 0x06200000#32 = .command (.fxlint 2#4) := by decide
theorem test_decode_fxgint : decode 0x07070000#32 = .command (.fxgint 7#4) := by decide
theorem test_decode_fxclr : decode 0x08700000#32 = .command (.fxclr 7#4) := by decide
theorem test_decode_fxld : decode 0x09500000#32 = .command (.fxld 5#4) := by decide
theorem test_decode_fxst : decode 0x0A050000#32 = .command (.fxst 5#4) := by decide
theorem test_decode_adjt : decode 0x10000000#32 = .command .adjt := by decide
theorem test_decode_gett : decode 0x11000000#32 = .command .gett := by decide
theorem test_decode_tick : decode 0x20000000#32 = .command .tick := by decide
theorem test_decode_secovf : decode 0x21000000#32 = .command .secovf := by decide
theorem test_decode_sett : decode 0x22000000#32 = .command .sett := by decide
theorem test_decode_hupd : decode 0x30000000#32 = .command .hupd := by decide
theorem test_decode_hpps : decode 0x40000000#32 = .command .hpps := by decide
theorem test_decode_calib : decode 0x50000000#32 = .command .calib := by decide
theorem test_decode_now : decode 0x51000000#32 = .command .now := by decide

/-- The encoder writes the words of 95_test_vectors.md 2.2. -/
theorem test_encode :
    encode (.fxadd 3#4 3#4) = 0x01330000#32 ∧ encode (.fxrsh 7#4 63#6) = 0x0470003F#32 ∧
      encode (.fxgint 7#4) = 0x07070000#32 ∧ encode (.fxst 5#4) = 0x0A050000#32 ∧ encode .now = 0x51000000#32 := by
  decide

/-- The illegal words of 95_test_vectors.md 2.3. -/
theorem test_decode_illegal :
    decode 0x00000000#32 = .illegal .unassignedOpcode ∧ decode 0xFF000000#32 = .illegal .unassignedOpcode ∧
      decode 0x0B000000#32 = .illegal .unassignedOpcode ∧ decode 0x01800000#32 = .illegal .registerOutOfRange ∧
      decode 0x01080000#32 = .illegal .registerOutOfRange ∧ decode 0x01120001#32 = .illegal .unusedFieldNotZero ∧
      decode 0x03010000#32 = .illegal .unusedFieldNotZero ∧ decode 0x04000040#32 = .illegal .unusedFieldNotZero := by
  decide

theorem test_decode_illegal_rest :
    decode 0x05200040#32 = .illegal .unusedFieldNotZero ∧ decode 0x07100000#32 = .illegal .unusedFieldNotZero ∧
      decode 0x0A080000#32 = .illegal .registerOutOfRange ∧ decode 0x09800000#32 = .illegal .registerOutOfRange ∧
      decode 0x10000001#32 = .illegal .unusedFieldNotZero ∧ decode 0x20100000#32 = .illegal .unusedFieldNotZero := by
  decide

theorem test_decodeTableWord : decodeTableWord 32 0x20000000 = some .tick ∧ decodeTableWord 32 0x0B000000 = none := by
  decide

/-! ### One command each -/

/-- The state a command leaves. -/
def ran (i : Instr) (s : State) : State :=
  match exec i s with
  | .next t => t
  | .fault _ => s
  | .refused _ => s

/-- After reset, a caller on bank 0 with privilege. -/
def bench : State := { State.reset with issue := ⟨0, 0#64, true⟩ }

/-- A state with the four ARG registers of the issuing bank set. -/
def withArgs (s : State) (a0 a1 a2 a3 : Word) : State :=
  s.modifyPort fun q => { q with arg0 := a0, arg1 := a1, arg2 := a2, arg3 := a3 }

/-- A state with one timescale register set. -/
def withT (r : BitVec 4) (v : Fx) : State := bench.writeT r v

/-- A bench state with the clock changed. -/
def withClock (f : Clock → Clock) : State := { bench with clock := f bench.clock }

/-- FC1 and FA6. -/
theorem test_fxadd_self : (ran (.fxadd 3#4 3#4) (withT 3#4 0x0000000500000000#64)).readT 3#4 = 0x0000000A00000000#64 := by
  decide
theorem test_fxadd_carry :
    (ran (.fxadd 0#4 1#4) ((withT 0#4 0x00000000FFFFFFFF#64).writeT 1#4 1#64)).readT 0#4 = 0x0000000100000000#64 := by
  decide
/-- FC2 and FB7. -/
theorem test_fxsub_self : (ran (.fxsub 3#4 3#4) (withT 3#4 0x123456789ABCDEF0#64)).readT 3#4 = 0#64 := by decide
theorem test_fxsub_borrow :
    (ran (.fxsub 0#4 1#4) ((withT 0#4 0x0000000100000000#64).writeT 1#4 1#64)).readT 0#4 = 0x00000000FFFFFFFF#64 := by
  decide
/-- FG5 and FG4. -/
theorem test_fxneg : (ran (.fxneg 0#4) (withT 0#4 0x0000000420000000#64)).readT 0#4 = 0xFFFFFFFBE0000000#64 := by decide
theorem test_fxneg_min : (ran (.fxneg 0#4) (withT 0#4 0x8000000000000000#64)).readT 0#4 = 0x8000000000000000#64 := by
  decide
/-- FC4 and FR18. -/
theorem test_fxrsh_63 : (ran (.fxrsh 7#4 63#6) (withT 7#4 0x8000000000000000#64)).readT 7#4 = 0xFFFFFFFFFFFFFFFF#64 := by
  decide
theorem test_fxrsh_36 : (ran (.fxrsh 0#4 36#6) (withT 0#4 0x923456789ABCDEF0#64)).readT 0#4 = 0xFFFFFFFFF9234567#64 := by
  decide
/-- FC5 and FM9. -/
theorem test_fxmul_unsigned :
    (ran (.fxmul 2#4) (withArgs (withT 2#4 0x0000000100000000#64) 0xFFFFFFFF#32 0#32 0#32 0#32)).readT 2#4 =
      0xFFFFFFFF00000000#64 := by decide
theorem test_fxmul_wraps :
    (ran (.fxmul 0#4) (withArgs (withT 0#4 0x123456789ABCDEF0#64) 0x89ABCDEF#32 0#32 0#32 0#32)).readT 0#4 =
      0x3579BDF90F2A5210#64 := by decide
/-- FC6. -/
theorem test_fxlint_signed :
    (ran (.fxlint 2#4) (withArgs bench 0xFFFFFFFF#32 0#32 0#32 0#32)).readT 2#4 = 0xFFFFFFFF00000000#64 := by decide
/-- FC7. -/
theorem test_fxgint_floor :
    (ran (.fxgint 7#4) (withT 7#4 0xFFFFFFFF80000000#64)).port.res0 = 0xFFFFFFFF#32 := by decide
/-- FC8. -/
theorem test_fxclr : (ran (.fxclr 7#4) (withT 7#4 0x123456789ABCDEF0#64)).readT 7#4 = 0#64 := by decide
/-- FC9. -/
theorem test_fxld :
    (ran (.fxld 5#4) (withArgs bench 0x9ABCDEF0#32 0x12345678#32 0#32 0#32)).readT 5#4 = 0x123456789ABCDEF0#64 := by
  decide
/-- FC10 and FC11. -/
theorem test_fxst :
    (ran (.fxst 5#4) (withT 5#4 0x123456789ABCDEF0#64)).port.res0 = 0x9ABCDEF0#32 ∧
      (ran (.fxst 5#4) (withT 5#4 0x123456789ABCDEF0#64)).port.res1 = 0x12345678#32 := by decide
theorem test_fxst_bank1 :
    ((ran (.fxst 0#4) { withT 0#4 7#64 with issue := ⟨1, 0#64, true⟩ }).cpu 1).port.res0 = 7#32 ∧
      ((ran (.fxst 0#4) { withT 0#4 7#64 with issue := ⟨1, 0#64, true⟩ }).cpu 0).port.res0 = 0#32 := by decide

/-- A state whose request block is given. -/
def withReq (s : State) (r : Req) : State := s.modifyPort fun q => { q with req := r }

/-- The request of CT6. -/
def requestCt6 : Req :=
  { Req.reset with
    modes := 0x20FE#32, status := 0xFF09#32, constant := 37#32, maxerror := 1000#32, esterror := 2000#32,
    shift := 20#32, freqLo := 6553600#32 }

/-- CT6 and CT1. -/
theorem test_adjt_fields :
    let t := ran .adjt (withReq bench requestCt6)
    t.clock.status = 0x2009#16 ∧ t.clock.tc = 10 ∧ t.clock.freq = 0x000186A000000000#64 ∧ t.pps.shiftmax = 15 ∧
      t.port.rsp.freq = 0x0000000000640000#64 ∧ t.port.stat = 0#32 := by decide
theorem test_adjt_denied :
    let s := withReq { bench with issue := ⟨0, 0#64, false⟩ } { Req.reset with modes := 0x0010#32, status := 1#32 }
    (ran .adjt s).port.stat = 0x00000015#32 ∧ (ran .adjt s).clock = s.clock := by decide
/-- The GETT vector of 2.5. -/
theorem test_gett :
    let t := ran .gett (withClock fun k =>
      { k with sec := 5#64, nsec := 1000000123#32, tai := 0xFFFFFFFD#32, status := 1#16 })
    t.port.rsp.nsec = 0x3B9ACA7B#32 ∧ t.port.rsp.tai = 0xFFFFFFFD#32 ∧ t.port.stat = 0x00000080#32 := by decide
/-- TK8 and TK6. -/
theorem test_tick_floor :
    let t := ran .tick (withClock fun k => { k with adj := 0xFFFFFF0600000000#64 })
    t.clock.nsec = 0xFFFFFFFD#32 ∧ t.clock.phase = 0x0000003200000000#64 := by decide
theorem test_tick_residual :
    let t := ran .tick (withArgs bench 0xFFFFB1E0#32 0#32 0#32 0#32)
    t.clock.nsec = 0xFF676980#32 ∧ t.port.stat = 0x00000005#32 := by decide
/-- SO1 and the third line of LI. -/
theorem test_secovf_spend :
    let t := ran .secovf (withClock fun k =>
      { k with nsec := 1000000000#32, status := 1#16, offset := 0x0000064000000000#64, freq := 0x0000006400000000#64 })
    t.clock.offset = 0x000005DC00000000#64 ∧ t.clock.adj = 0x3B9ACAC800000000#64 ∧ t.clock.sec = 1#64 ∧
      t.clock.maxerror = 500500#32 := by decide
theorem test_secovf_insert :
    let t := ran .secovf (withClock fun k =>
      { k with nsec := 1000000000#32, status := 0x0011#16, sec := 86399#64, state := 1#3 })
    t.clock.sec = 86399#64 ∧ t.clock.state = 3#3 ∧ t.port.stat = 0x00000003#32 := by decide
/-- ST4 and ST2. -/
theorem test_sett_clamps :
    let t := ran .sett (withArgs bench 5#32 0#32 0x3B9ACA00#32 0#32)
    t.clock.sec = 5#64 ∧ t.clock.nsec = 999999999#32 := by decide
theorem test_sett_denied :
    (ran .sett { withArgs bench 5#32 0#32 5#32 0#32 with issue := ⟨0, 0#64, false⟩ }).port.stat = 0x00000015#32 := by
  decide
/-- HU2 and HU14. -/
theorem test_hupd_fll :
    let t := ran .hupd (withArgs (withClock fun k =>
      { k with status := 9#16, tc := 2, sec := 1000#64, reftime := 936#64 }) 50000#32 0#32 0#32 0#32)
    t.clock.freq = 0x000003D090000000#64 ∧ t.clock.status = 0x4009#16 ∧ t.clock.offset = 0x0000C35000000000#64 := by
  decide
theorem test_hupd_wraps :
    (ran .hupd (withArgs (withClock fun k =>
      { k with status := 1#16, sec := 2100#64, reftime := 1000#64 }) 500000000#32 0#32 0#32 0#32)).clock.freq =
      0xFFF85EE000000000#64 := by decide

/-- The filter state of PP12. -/
def ppsPp12 : State :=
  { withClock fun k => { k with status := 0x0005#16 } with
    pps :=
      { bench.pps with
        init := true, tfn0 := 1000#32, tfn1 := 1000#32, tfn2 := 1000#32, tfsec := 99#64, lastsec := 99#64,
        jitter := 10#32 } }

/-- PP12 and PP13. -/
theorem test_hpps_accepts :
    let t := ran .hpps (withArgs ppsPp12 100#32 0#32 1040#32 0#32)
    t.clock.offset = 0xFFFFFC1800000000#64 ∧ t.pps.jitter = 17#32 ∧ t.clock.status = 0x0105#16 ∧
      t.port.stat = 0#32 := by decide
theorem test_hpps_popcorn :
    let t := ran .hpps (withArgs ppsPp12 100#32 0#32 1041#32 0#32)
    t.clock.offset = 0#64 ∧ t.pps.jitcnt = 1#32 ∧ t.clock.status = 0x0305#16 ∧ t.pps.jitter = 17#32 := by decide

/-- The counter correction table of 2.8 (R311): last value, count, what is added. -/
theorem test_hpps_counter :
    ∀ row ∈ ([(999999000, 500, 1500), (500, 999999000, -1500), (9999000, 1500, 2500), (0, 9999500, -500),
        (9999500, 0, 500), (0, 5000000, 5000000), (0, 5000001, -4999999), (0, -5000000, -5000000),
        (0, -5000001, 4999999), (0, 500000000, 490000000), (0, 500000001, -489999999), (0, -500000001, 489999999),
        (-2147483648, 2147483647, 3284967295)] : List (Int × Int × Int)),
      correctedDelta Params.reference (row.2.1 - row.1) = row.2.2 := by decide

/-- CA1 and P4: the first CALIB. -/
theorem test_calib_seed :
    (ran .calib bench).self.interp = ⟨0#64, 0#64, 0#32, 1000000000#64, 100000000#64, true⟩ := by decide
/-- NW8 and NW14. -/
theorem test_now_offset :
    let s : State :=
      { withClock fun k => { k with sec := 3#64, nsec := 20000000#32 } with
        mcnt := 0xFFFFFFF0#64, issue := ⟨0, 0x10#64, true⟩ }
    let t := ran .now (s.modifyInterp fun u => { u with num := 10#64, den := 1#64, initd := true })
    t.port.res0 = 3#32 ∧ t.port.res2 = 0x01312E40#32 ∧ t.port.stat = 0x00000005#32 := by decide
theorem test_now_floored :
    let t := ran .now { withClock fun k => { k with sec := -2#64, nsec := -5#32 } with lastSec := -50#64 }
    t.port.res0 = 0xFFFFFFFD#32 ∧ t.port.res1 = 0xFFFFFFFF#32 ∧ t.port.res2 = 0x3B9AC9FB#32 := by decide

/-! ### One access each -/

/-- The state a step leaves. -/
def stepped (s : State) : State :=
  match step s with
  | .next t => t
  | .fault _ => s
  | .refused _ => s

/-- After reset, one access pending. -/
def accessing (a : Access) : State := { State.reset with pending := [a] }

/-- A whole-word write by a caller with privilege and a cycle count of 77. -/
def writeAt (addr : Nat) (v : Word) : Access := ⟨addr, .write v, .word, 77#64, true⟩

/-- A whole-word read. -/
def readAt (addr : Nat) : Access := ⟨addr, .read, .word, 0#64, false⟩

/-- TK7: TICK written to CMD of bank 1. -/
theorem test_step_command_bank1 :
    let t := stepped (accessing (writeAt 128 0x20000000#32))
    t.mcnt = 77#64 ∧ t.clock.nsec = 10000000#32 ∧ t.pending = [] ∧ (t.cpu 1).port.stat = 5#32 := by decide
/-- 2.3: an illegal word leaves STAT = 0x25 and nothing else changed. -/
theorem test_step_illegal :
    let t := stepped (accessing (writeAt 0 0x0B000000#32))
    t.port.stat = 0x00000025#32 ∧ t.clock = State.reset.clock ∧ t.t = State.reset.t := by decide
/-- 2.4: ARG3 keeps all 32 bits in its own bank; RES0 and a reserved word ignore a write. -/
theorem test_step_port_writes :
    portRead (stepped (accessing (writeAt 5 0xDEADBEEF#32))) 5 = 0xDEADBEEF#32 ∧
      portRead (stepped (accessing (writeAt 5 0xDEADBEEF#32))) 133 = 0#32 ∧
      (stepped (accessing (writeAt 6 0x12345678#32))).cpus = State.reset.cpus ∧
      (stepped (accessing (writeAt 10 1#32))).cpus = State.reset.cpus := by decide
/-- 2.4: STAT reads 5 after reset, CMD and offset 0x7F read 0. -/
theorem test_step_port_reads :
    (stepped (accessing (readAt 1))).reads = [⟨1, 5#32⟩] ∧ (stepped (accessing (readAt 0))).reads = [⟨0, 0#32⟩] ∧
      (stepped (accessing (readAt 127))).reads = [⟨127, 0#32⟩] := by decide
/-- The fetch word runs as the first command after reset. -/
theorem test_withFetchWord : (stepped (State.reset.withFetchWord 32 0x51000000)).port.stat = 0x00000045#32 := by
  decide
/-- FXMOV T2, T0 expands to the two words of P1. -/
theorem test_listing_fxmov :
    (Line.expand ⟨1, 0#64, true⟩ (.fxmov 2#4 0#4)).map (fun a => (a.addr, a.kind)) =
      [(128, .write 0x08200000#32), (128, .write 0x01200000#32)] := by decide

/-! ### Witnesses: a concrete state and operands that meet the hypotheses of each statement -/

theorem issued_bench : Issued bench := by unfold Issued; decide

/-- A state whose parameters, interpolators and small registers are those of reset has the invariant where its clock
and PPS state have. -/
theorem inv_of_parts (s : State) (hc : s.cfg = Params.reference) (hk : ClockInv s.cfg s.clock) (hv : PpsInv s.pps)
    (hm : s.mcnt = 0#64) (hl : s.lastNsec = 0#32) (hn : s.cpus.length = 2)
    (hu : ∀ u ∈ s.cpus, u.interp = Interp.reset ∧ u.port.stat = 5#32) : Inv s := by
  refine ⟨by rw [hc]; decide, by rw [hn, hc]; decide, hk, hv, by rw [hm, hc]; decide, by rw [hl]; decide, ?_⟩
  intro u h
  obtain ⟨h1, h2⟩ := hu u h
  exact ⟨by rw [h1]; decide, by rw [h1]; decide, by rw [h1, hc]; decide, by rw [h2]; decide⟩

theorem ppsInv_bench : PpsInv bench.pps :=
  ⟨by decide, by decide, by decide, And.intro (by decide) (by decide), And.intro (by decide) (by decide),
    And.intro (by decide) (by decide), And.intro (by decide) (by decide), by decide⟩

/-- The clock of the HUPD vector HU1. -/
def clockHu1 : Clock := { bench.clock with status := 1#16, tc := 2, sec := 1000#64, reftime := 936#64 }

theorem clockInv_hu1 : ClockInv Params.reference clockHu1 :=
  ⟨by decide, by decide, by decide, And.intro (by decide) (by decide), And.intro (by decide) (by decide), by decide⟩

/-- HU1 with a sample in ARG1:ARG0. -/
def sampleHu1 (lo hi : Word) : State := withArgs { bench with clock := clockHu1 } lo hi 0#32 0#32

theorem inv_hu1 (lo hi : Word) : Inv (sampleHu1 lo hi) :=
  inv_of_parts _ rfl clockInv_hu1 ppsInv_bench rfl rfl rfl (by
    intro u hu
    simp only [sampleHu1, withArgs, State.modifyPort, State.modifyCpu, bench, State.reset, State.resetWith] at hu
    simp only [Params.reference, List.replicate, List.modify, List.modifyTailIdx, List.modifyTailIdx.go,
      List.modifyHead, List.mem_cons, List.not_mem_nil, or_false] at hu
    rcases hu with rfl | rfl <;> exact ⟨rfl, rfl⟩)

/-- A clock with a residual offset, for SECOVF. -/
def spending (v : Fx) : State := { bench with clock := { bench.clock with offset := v } }

theorem inv_spending_plus : Inv (spending 0x1DCD650000000000#64) :=
  inv_of_parts _ rfl
    ⟨by decide, by decide, by decide, And.intro (by decide) (by decide), And.intro (by decide) (by decide), by decide⟩
    ppsInv_bench rfl rfl rfl (by decide)

theorem inv_spending_minus : Inv (spending 0xE2329B0000000000#64) :=
  inv_of_parts _ rfl
    ⟨by decide, by decide, by decide, And.intro (by decide) (by decide), And.intro (by decide) (by decide), by decide⟩
    ppsInv_bench rfl rfl rfl (by decide)

theorem witness_DecodeOfEncode : (Instr.fxrsh 7#4 63#6).WellFormed = true := by decide
theorem witness_EncodeOfDecode : decode 0x0470003F#32 = .command (.fxrsh 7#4 63#6) := by decide
theorem witness_LegalWordsAreTableRows :
    (∃ i, decode 0x01770000#32 = .command i) ∧ ¬∃ row ∈ opcodeTable, 0x01780000#32 &&& row.mask = row.pattern := by
  exact ⟨⟨.fxadd 7#4 7#4, by decide⟩, by decide⟩
theorem witness_IllFormedCommandsAreIllegal : Instr.WellFormed (.fxadd 7#4 8#4) = false := by decide
/-- The hypotheses of a statement about the next access, which writes CMD. -/
abbrev CmdAccess (s : State) (a : Access) (rest : List Access) (w : Word) : Prop :=
  s.pending = a :: rest ∧ a.shape = .word ∧ a.addr < 128 * s.cfg.ncpu ∧ a.addr % 128 = 0 ∧ a.kind = .write w

theorem witness_StepRunsDecodedCommand :
    CmdAccess (accessing (writeAt 128 0x51000000#32)) (writeAt 128 0x51000000#32) [] 0x51000000#32 ∧
      decode 0x51000000#32 = .command .now := by
  decide
theorem witness_IllegalWordOnlySetsStat :
    CmdAccess (accessing (writeAt 128 0x01080000#32)) (writeAt 128 0x01080000#32) [] 0x01080000#32 ∧
      decode 0x01080000#32 = .illegal .registerOutOfRange ∧
      (accessing (writeAt 128 0x01080000#32)).cpus.length = (accessing (writeAt 128 0x01080000#32)).cfg.ncpu := by
  decide
/-- A whole-word read of an address of the port space is pending. -/
abbrev ReadPending (s : State) (a : Access) : Prop :=
  s.pending = [a] ∧ a.shape = .word ∧ a.addr < 128 * s.cfg.ncpu ∧ a.kind = .read

/-- Reads of bank 1 at CMD, STAT and both ends of every range of named and of reserved words are pending; the named words
are those of no reserved range. -/
theorem witness_PortReadReturnsRegister :
    (∀ n ∈ [128, 129, 137, 138, 143, 144, 153, 154, 159, 160, 195, 196, 255],
        ReadPending (accessing (readAt n)) (readAt n)) ∧
      (readableWords Port.reset).map Prod.fst = List.range' 0x01 9 ++ List.range' 0x10 10 ++ List.range' 0x20 36 := by
  exact ⟨by decide, rfl⟩

/-- A whole-word write of an address of the port space other than a CMD is pending. -/
abbrev WritePending (s : State) (a : Access) (v : Word) : Prop :=
  s.pending = [a] ∧ a.shape = .word ∧ a.addr < 128 * s.cfg.ncpu ∧ s.cpus.length = s.cfg.ncpu ∧ a.kind = .write v ∧
    a.addr % 128 ≠ 0

/-- Both ends of the two stored ranges, and the words next to them; every offset of the ranges names one register. -/
theorem witness_PortWriteStoresOrIsIgnored :
    (∀ n ∈ [1, 2, 5, 6, 15, 16, 25, 26, 127, 129, 130, 255],
        WritePending (accessing (writeAt n 9#32)) (writeAt n 9#32) 9#32) ∧
      (writableWords 9#32).map Prod.fst = List.range' 0x02 4 ++ List.range' 0x10 10 := by
  exact ⟨by decide, rfl⟩

/-- A byte access; a word one past the last bank. -/
theorem witness_AccessesOutsideThePort :
    (accessing ⟨0, .read, .byte, 0#64, true⟩).pending = [⟨0, .read, .byte, 0#64, true⟩] ∧ AccessShape.byte ≠ .word ∧
      (accessing (readAt 256)).pending = [readAt 256] ∧ (readAt 256).shape = .word ∧
      128 * (accessing (readAt 256)).cfg.ncpu ≤ (readAt 256).addr := by decide

theorem witness_EveryAccessCompletes :
    (accessing (readAt 255)).pending = [readAt 255] ∧ (readAt 255).shape = .word ∧
      (readAt 255).addr < 128 * (accessing (readAt 255)).cfg.ncpu ∧ State.reset.pending = [] := by decide

theorem witness_EveryCommandEndsWithStat : Issued bench ∧ (∃ t, runWord 0x51000000#32 bench = .next t) :=
  ⟨issued_bench, _, rfl⟩

theorem witness_FxaddResult :
    (7#4).toNat < 8 ∧ (0#4).toNat < 8 ∧ Issued bench := by
  exact ⟨by decide, by decide, issued_bench⟩
theorem witness_FxsubResult :
    (7#4).toNat < 8 ∧ (0#4).toNat < 8 ∧ Issued bench := by
  exact ⟨by decide, by decide, issued_bench⟩
theorem witness_FxnegResult : (7#4).toNat < 8 ∧ Issued bench := by exact ⟨by decide, issued_bench⟩
theorem witness_FxrshResult : (7#4).toNat < 8 ∧ Issued bench := by exact ⟨by decide, issued_bench⟩
theorem witness_FxmulResult : (7#4).toNat < 8 ∧ Issued bench := by exact ⟨by decide, issued_bench⟩
theorem witness_FxlintResult : (7#4).toNat < 8 ∧ Issued bench := by exact ⟨by decide, issued_bench⟩
theorem witness_FxgintResult : (7#4).toNat < 8 ∧ Issued bench := by exact ⟨by decide, issued_bench⟩
theorem witness_FxclrResult : (7#4).toNat < 8 ∧ Issued bench := by exact ⟨by decide, issued_bench⟩
theorem witness_FxldResult : (7#4).toNat < 8 ∧ Issued bench := by exact ⟨by decide, issued_bench⟩
theorem witness_FxstResult : (7#4).toNat < 8 ∧ Issued bench := by exact ⟨by decide, issued_bench⟩
theorem witness_SplitBackendAgrees : 63 ≤ 63 ∧ 4294967295 < 2 ^ 32 ∧ 18446744073709551615 < 2 ^ 64 := by decide
theorem witness_FxAndDisciplineDoNotMeet :
    exec (.fxclr 0#4) bench = .next (ran (.fxclr 0#4) bench) ∧ isFx (.fxclr 0#4) = true ∧
      exec .now bench = .next (ran .now bench) ∧ isFx .now = false := by
  exact ⟨rfl, rfl, rfl, rfl⟩

/-- A caller of ADJT with the given request and privilege. -/
def asking (modes status : Word) (priv : Bool) : State :=
  withReq { bench with issue := ⟨0, 0#64, priv⟩ } { Req.reset with modes := modes, status := status }

theorem issued_asking (modes status : Word) (priv : Bool) : Issued (asking modes status priv) := Nat.succ_pos 1

/-- A reserved mode bit alone without privilege; bits 31:16 alone; privilege. -/
theorem witness_AdjtPrivilege :
    (asking 0x0100#32 0#32 false).port.req.modes.setWidth 16 ≠ 0#16 ∧ (asking 0x0100#32 0#32 false).issue.priv = false ∧
      (asking 0xFFFF0000#32 0#32 false).port.req.modes.setWidth 16 = 0#16 ∧
      (asking 0x8000#32 0#32 true).issue.priv = true := by decide

theorem permitted_read : AdjtPermitted (asking 0xFFFF0000#32 0#32 false) := Or.inl (by decide)
theorem permitted_write (modes status : Word) : AdjtPermitted (asking modes status true) := Or.inr rfl

theorem witness_AdjtReturnsSnapshot :
    Issued (asking 0xFFFF0000#32 0#32 false) ∧ AdjtPermitted (asking 0xFFFF0000#32 0#32 false) :=
  ⟨issued_asking _ _ _, permitted_read⟩

theorem witness_AdjtWritesSelectedFields :
    Issued (asking 0x00EC#32 0#32 true) ∧ AdjtPermitted (asking 0x00EC#32 0#32 true) :=
  ⟨issued_asking _ _ _, permitted_write _ _⟩

/-- A write that disables the PLL: PLL set, STATUS selected, PLL clear in the request. -/
def disabling : State := { asking 0x0010#32 0x0030#32 true with clock := { bench.clock with status := 0xE70F#16 } }

theorem witness_AdjtStatusWrite :
    Issued disabling ∧ AdjtPermitted disabling ∧ disablesPll disabling.port.req disabling.clock = true ∧
      Issued (asking 0x0010#32 1#32 true) ∧
      disablesPll (asking 0x0010#32 1#32 true).port.req (asking 0x0010#32 1#32 true).clock = false :=
  ⟨Nat.succ_pos 1, Or.inr rfl, by decide, issued_asking _ _ _, by decide⟩

theorem witness_AdjtResolutionAndSource : Issued (asking 0xF000#32 0#32 true) ∧ AdjtPermitted (asking 0xF000#32 0#32 true) :=
  ⟨issued_asking _ _ _, permitted_write _ _⟩

theorem witness_AdjtOffsetWrite :
    (Issued (asking 0x0011#32 1#32 true) ∧ AdjtPermitted (asking 0x0011#32 1#32 true) ∧
      (asking 0x0011#32 1#32 true).port.req.modes.getLsbD 1 = false ∧
      (asking 0x0011#32 1#32 true).port.req.modes.getLsbD 0 = true) ∧
      Issued (asking 0x0010#32 1#32 true) ∧ AdjtPermitted (asking 0x0010#32 1#32 true) ∧
      (asking 0x0010#32 1#32 true).port.req.modes.getLsbD 1 = false ∧
      (asking 0x0010#32 1#32 true).port.req.modes.getLsbD 0 = false :=
  ⟨⟨issued_asking _ _ _, permitted_write _ _, by decide, by decide⟩, issued_asking _ _ _, permitted_write _ _,
    by decide, by decide⟩

theorem witness_AdjtFrequencyWrite :
    Issued (asking 0x0002#32 0#32 true) ∧ AdjtPermitted (asking 0x0002#32 0#32 true) ∧
      (asking 0x0002#32 0#32 true).port.req.modes.getLsbD 1 = true ∧
      (asking 0x0002#32 0#32 true).port.req.modes.getLsbD 0 = false :=
  ⟨issued_asking _ _ _, permitted_write _ _, by decide, by decide⟩

theorem witness_GettReturnsClock : Issued (asking 0#32 0#32 false) := issued_asking _ _ _

theorem witness_TickResult : Issued bench ∧ 1 ≤ bench.cfg.hz ∧ bench.cfg.hz ≤ 1000000000 ∧ bench.cfg.cw ≤ 64 :=
  ⟨issued_bench, by decide, by decide, by decide⟩

/-- PHASE at the top of its range, 99 ns and the largest fraction. -/
def almostCarry : State := withClock fun k => { k with phase := 0x00000063FFFFFFFF#64 }

theorem witness_TicksLoseNoTime :
    Issued almostCarry ∧ 1 ≤ almostCarry.cfg.hz ∧ almostCarry.cfg.hz ≤ 1000000000 ∧ almostCarry.port.arg0 = 0#32 ∧
      0 ≤ almostCarry.clock.phase.toInt ∧ almostCarry.clock.phase.toInt < almostCarry.cfg.hz * 4294967296 ∧
      almostCarry.clock.adj.toInt + almostCarry.cfg.hz * 4294967296 ≤ 9223372036854775808 :=
  ⟨Nat.succ_pos 1, by decide, by decide, by decide, by decide, by decide, by decide⟩

/-- A second is due (or not) with the given state code and seconds. -/
def rolling (code : BitVec 3) (sec : BitVec 64) (nsec : BitVec 32) : State :=
  withClock fun k => { k with state := code, sec := sec, nsec := nsec }

/-- Each state code. -/
theorem witness_SecovfNormalisesAndLeaps :
    ∀ code ∈ [0#3, 1#3, 2#3, 3#3, 4#3, 7#3],
      Issued (rolling code 86398#64 1000000000#32) ∧ (rolling code 86398#64 1000000000#32).clock.state = code := by
  unfold Issued; decide

/-- The seconds at a day boundary and next to it, with a second due and not due. -/
theorem witness_SecovfNormalisesAndLeaps_days :
    (86399#64 + 1#64).toInt % 86400 = 0 ∧ (86398#64 + 1#64).toInt % 86400 ≠ 0 ∧
      ((86398#64 + 1#64).toInt + 1) % 86400 = 0 ∧ ((86399#64 + 1#64).toInt + 1) % 86400 ≠ 0 ∧
      1000000000 ≤ (1000000000#32).toInt ∧ ¬1000000000 ≤ (999999999#32).toInt := by decide

theorem witness_SecovfSpendsAndCounts : Issued (spending 0x1DCD650000000000#64) ∧ Inv (spending 0x1DCD650000000000#64) :=
  ⟨Nat.succ_pos 1, inv_spending_plus⟩

theorem witness_ResidualNeverGrows :
    (Inv (spending 0x1DCD650000000000#64) ∧ 0 ≤ (spending 0x1DCD650000000000#64).clock.offset.toInt) ∧
      Inv (spending 0xE2329B0000000000#64) ∧ (spending 0xE2329B0000000000#64).clock.offset.toInt ≤ 0 :=
  ⟨⟨inv_spending_plus, by decide⟩, inv_spending_minus, by decide⟩

theorem witness_SettSetsClock :
    Issued bench ∧ bench.issue.priv = true ∧ Issued (asking 0#32 0#32 false) ∧
      (asking 0#32 0#32 false).issue.priv = false :=
  ⟨issued_bench, rfl, issued_asking _ _ _, by decide⟩

theorem witness_HupdUpdatesEstimate :
    Issued (sampleHu1 50000#32 0#32) ∧ (sampleHu1 50000#32 0#32).cfg.Wf ∧
      (sampleHu1 50000#32 0#32).clock.tc ≤ (sampleHu1 50000#32 0#32).cfg.maxtc ∧
      (sampleHu1 50000#32 0#32).clock.status.getLsbD 0 = true ∧
      ((sampleHu1 50000#32 0#32).clock.status.getLsbD 1 && (sampleHu1 50000#32 0#32).clock.status.getLsbD 8) = false :=
  ⟨Nat.succ_pos 1, by decide, by decide, by decide, by decide⟩

/-- HU4 (PLL off) and HU17 (the PPS path owns the frequency). -/
theorem witness_HupdDisabledOrPpsOwned :
    Issued (withClock fun k => { k with status := 0x0048#16 }) ∧ (0x0048#16).getLsbD 0 = false ∧
      Issued (withClock fun k => { k with status := 0x4103#16 }) ∧ (0x4103#16).getLsbD 0 = true ∧
      (0x4103#16).getLsbD 1 = true ∧ (0x4103#16).getLsbD 8 = true :=
  ⟨Nat.succ_pos 1, by decide, Nat.succ_pos 1, by decide, by decide, by decide⟩

theorem witness_ZeroSampleKeepsFrequency :
    Inv (sampleHu1 0#32 0#32) ∧ (sampleHu1 0#32 0#32).port.arg0 = 0#32 ∧ (sampleHu1 0#32 0#32).port.arg1 = 0#32 :=
  ⟨inv_hu1 _ _, by decide, by decide⟩

/-- The bound on the sample and the elapsed time, as FrequencyFollowsSampleSign states it. -/
def ShortSample (s : State) : Prop :=
  let m := max (-500000000) (min (s.port.arg1 ++ s.port.arg0).toInt 500000000)
  let e := max (s.clock.sec.toInt - s.clock.reftime.toInt) 0
  (m.natAbs : Int) * e ≤ 2000000000 * 2 ^ (2 * (s.cfg.pllGain + s.clock.tc)) ∧ e ≤ 4503599627370496

theorem witness_FrequencyFollowsSampleSign :
    (Inv (sampleHu1 50000#32 0#32) ∧ ShortSample (sampleHu1 50000#32 0#32) ∧
      0 < ((sampleHu1 50000#32 0#32).port.arg1 ++ (sampleHu1 50000#32 0#32).port.arg0).toInt) ∧
      Inv (sampleHu1 0xFFFFFFFF#32 0xFFFFFFFF#32) ∧ ShortSample (sampleHu1 0xFFFFFFFF#32 0xFFFFFFFF#32) ∧
      ((sampleHu1 0xFFFFFFFF#32 0xFFFFFFFF#32).port.arg1 ++ (sampleHu1 0xFFFFFFFF#32 0xFFFFFFFF#32).port.arg0).toInt <
        0 :=
  ⟨⟨inv_hu1 _ _, by unfold ShortSample; decide, by decide⟩, inv_hu1 _ _, by unfold ShortSample; decide, by decide⟩

theorem witness_MedianIsMiddle : (0 : Int) ≤ 500000000 ∧ (500000000 : Int) ≤ 1000000000 := by decide

theorem witness_EdgeIsNearestSecond :
    max 0 (min (499999999 : Int) 999999999) < 500000000 ∧ 500000000 ≤ max 0 (min (500000000 : Int) 999999999) := by
  decide

/-- A clock under PPS discipline. -/
def clockPps : Clock := { bench.clock with status := 0x0107#16 }

/-- An averaging interval of four seconds that began at second 100, with the given sum of deltas; the last edge stood
at 1000 ns of second 103. -/
def ppsAveraging (sum : BitVec 64) : Pps :=
  { bench.pps with
    init := true, tfn0 := 1000#32, tfn1 := 1000#32, tfn2 := 1000#32, tfsec := 103#64, lastsec := 100#64, fcount := sum }

/-- That filter state with an edge in the ARG registers. -/
def averaging (sum : BitVec 64) (sec nsec : Word) : State :=
  withArgs { bench with clock := clockPps, pps := ppsAveraging sum } sec 0#32 nsec 0#32

theorem witness_HppsDropsDuplicate :
    Issued (averaging 0#64 103#32 2000#32) ∧ (averaging 0#64 103#32 2000#32).pps.init = true ∧
      (averaging 0#64 103#32 2000#32).edge.sec = (averaging 0#64 103#32 2000#32).pps.tfsec := by
  unfold Issued; decide

/-- A step of 500 001 ns, on a first or a later edge, with a counter value after 0. -/
def gatedCount (init : Bool) (count : Word) : State :=
  withArgs { bench with clock := clockPps, pps := { ppsAveraging 7#64 with init := init } } 104#32 0#32 501001#32 count

/-- The hypotheses of HppsGatesEdge. -/
def GatedEdge (s : State) : Prop := Issued s ∧ s.edgeIsNew ∧ ¬s.edgePasses ∧ FitsS64 s.ppsSum

/-- The first edge and a later one, with counts at both bounds of either correction and one beyond. -/
theorem witness_HppsGatesEdge :
    GatedEdge (gatedCount false 5000001#32) ∧ GatedEdge (gatedCount true 5000000#32) ∧
      GatedEdge (gatedCount true 5000001#32) ∧ GatedEdge (gatedCount true (-5000000#32)) ∧
      GatedEdge (gatedCount true (-5000001#32)) ∧ GatedEdge (gatedCount true 500000000#32) ∧
      GatedEdge (gatedCount true 500000001#32) ∧ GatedEdge (gatedCount true (-500000000#32)) ∧
      GatedEdge (gatedCount true (-500000001#32)) := by
  unfold GatedEdge Issued State.edgeIsNew State.edgePasses FitsS64
  refine ⟨?_, ?_, ?_, ?_, ?_, ?_, ?_, ?_, ?_⟩ <;> decide

/-- The hypotheses of the statements about an edge that passes the gate. -/
def PassingEdge (s : State) : Prop := Issued s ∧ s.edgeIsNew ∧ s.edgePasses

/-- A step of exactly 500 000 ns. -/
theorem passing_at_limit : PassingEdge (averaging 0#64 104#32 501000#32) := by
  unfold PassingEdge Issued State.edgeIsNew State.edgePasses; decide

theorem witness_HppsFiltersOpenInterval :
    PassingEdge { averaging 0#64 104#32 1000#32 with pps := { (averaging 0#64 104#32 1000#32).pps with lastsec := 101#64 } } ∧
      State.ppsElapsed
        { averaging 0#64 104#32 1000#32 with pps := { (averaging 0#64 104#32 1000#32).pps with lastsec := 101#64 } } <
        2 ^ 2 := by
  unfold PassingEdge Issued State.edgeIsNew State.edgePasses; decide

/-- The hypotheses of HppsRejectsInterval beside the passing edge, for a shift of 2. -/
def OutOfBounds (s : State) : Prop :=
  s.pps.shift = 2 ∧ 2 ^ 2 ≤ s.ppsElapsed ∧ FitsS64 s.ppsSum ∧
    (500000 * 2 ^ 2 < s.ppsSum ∨ s.ppsSum < -(500000 * 2 ^ 2) ∨ s.ppsElapsed ≠ 2 ^ 2)

/-- One above the bound, one below the opposite bound, and five seconds for four. -/
theorem witness_HppsRejectsInterval :
    (PassingEdge (averaging 2000001#64 104#32 1000#32) ∧ OutOfBounds (averaging 2000001#64 104#32 1000#32)) ∧
      (PassingEdge (averaging (-2000001#64) 104#32 1000#32) ∧ OutOfBounds (averaging (-2000001#64) 104#32 1000#32)) ∧
      PassingEdge (averaging 0#64 105#32 1000#32) ∧ OutOfBounds (averaging 0#64 105#32 1000#32) := by
  unfold PassingEdge Issued State.edgeIsNew State.edgePasses OutOfBounds FitsS64; decide

theorem clockInv_pps : ClockInv Params.reference clockPps :=
  ⟨by decide, by decide, by decide, And.intro (by decide) (by decide), And.intro (by decide) (by decide), by decide⟩

theorem ppsInv_averaging : PpsInv (ppsAveraging 0#64) :=
  ⟨by decide, by decide, by decide, And.intro (by decide) (by decide), And.intro (by decide) (by decide),
    And.intro (by decide) (by decide), And.intro (by decide) (by decide), by decide⟩

theorem inv_averaging (sum : BitVec 64) (sec nsec : Word) : Inv (averaging sum sec nsec) :=
  have h := ppsInv_averaging
  inv_of_parts _ rfl clockInv_pps
    ⟨h.shift, h.shiftmax, h.intcnt, h.freq, h.tfn0, h.tfn1, h.tfn2, h.jitter⟩ rfl rfl rfl (by
    intro u hu
    simp only [averaging, withArgs, State.modifyPort, State.modifyCpu, bench, State.reset, State.resetWith] at hu
    simp only [Params.reference, List.replicate, List.modify, List.modifyTailIdx, List.modifyTailIdx.go,
      List.modifyHead, List.mem_cons, List.not_mem_nil, or_false] at hu
    rcases hu with rfl | rfl <;> exact ⟨rfl, rfl⟩)

/-- Both sums at the bound, 2 000 000 and -2 000 000. -/
theorem witness_HppsAcceptsInterval :
    (Inv (averaging 2000000#64 104#32 1000#32) ∧ PassingEdge (averaging 2000000#64 104#32 1000#32) ∧
      (averaging 2000000#64 104#32 1000#32).ppsElapsed = 2 ^ 2 ∧
      (averaging 2000000#64 104#32 1000#32).ppsSum = 500000 * 2 ^ 2) ∧
      Inv (averaging (-2000000#64) 104#32 1000#32) ∧ PassingEdge (averaging (-2000000#64) 104#32 1000#32) ∧
      (averaging (-2000000#64) 104#32 1000#32).ppsElapsed = 2 ^ 2 ∧
      (averaging (-2000000#64) 104#32 1000#32).ppsSum = -(500000 * 2 ^ 2) := by
  refine ⟨⟨inv_averaging _ _ _, ?_⟩, inv_averaging _ _ _, ?_⟩ <;>
    (unfold PassingEdge Issued State.edgeIsNew State.edgePasses; decide)

theorem witness_CalibSeedsRatio : Issued bench ∧ bench.cfg.Wf ∧ bench.self.interp.initd = false :=
  ⟨issued_bench, by decide, by decide⟩

/-- A calibrated processor whose clock has advanced by one nanosecond and its counter by the given count. -/
def calibrated (cyc : BitVec 64) : State :=
  { withClock fun k => { k with nsec := 1#32 } with issue := ⟨0, cyc, true⟩ }.modifyInterp fun u =>
    { u with num := 1#64, den := 1#64, initd := true }

theorem issued_calibrated (cyc : BitVec 64) : Issued (calibrated cyc) := Nat.succ_pos 1

/-- A good sample (1 ns, 1 count) and one with no count. -/
theorem witness_CalibUpdatesRatio_clauses :
    (calibrated 1#64).cfg.Wf ∧ (calibrated 1#64).self.interp.initd = true ∧
      calibNum (calibrated 1#64).clock (calibrated 1#64).self.interp = 1 ∧
      cycDelta (calibrated 1#64).cfg (calibrated 1#64).issue.cyc (calibrated 1#64).self.interp.scnt = 1 ∧
      (calibrated 0#64).self.interp.initd = true ∧
      cycDelta (calibrated 0#64).cfg (calibrated 0#64).issue.cyc (calibrated 0#64).self.interp.scnt = 0 := by decide

theorem witness_CalibUpdatesRatio :
    Issued (calibrated 1#64) ∧ (calibrated 1#64).cfg.Wf ∧ (calibrated 1#64).self.interp.initd = true :=
  ⟨issued_calibrated _, by decide, by decide⟩

theorem witness_NowReturnsTimestamp : Issued (calibrated 5#64) ∧ (calibrated 5#64).cfg.Wf :=
  ⟨issued_calibrated _, by decide⟩

/-- The conditions of NowIsStrictlyMonotonic on seconds and ratio. -/
abbrev Monotone (s : State) : Prop :=
  s.cfg.Wf ∧ 1 ≤ s.cfg.hz ∧ -4611686018427387904 ≤ s.clock.sec.toInt ∧ s.clock.sec.toInt < 4611686018427387904 ∧
    -4611686018427387904 ≤ s.lastSec.toInt ∧ s.lastSec.toInt < 4611686018427387904 ∧
    (s.self.interp.initd = true → 1 ≤ s.self.interp.num.toInt)

theorem witness_NowIsStrictlyMonotonic : Monotone (calibrated 5#64) ∧ Monotone bench := by decide

theorem inv_reset : Inv State.reset :=
  inv_of_parts _ rfl
    ⟨by decide, by decide, by decide, And.intro (by decide) (by decide), And.intro (by decide) (by decide), by decide⟩
    ppsInv_bench rfl rfl rfl (by decide)

/-- A command word written to CMD of bank 0 of a state. -/
def commanding (s : State) (w : Word) : State := { s with pending := [writeAt 0 w] }

theorem inv_commanding_hu1 (lo hi w : Word) : Inv (commanding (sampleHu1 lo hi) w) :=
  have h := inv_hu1 lo hi
  ⟨h.cfg, h.ncpu, h.clock, h.pps, h.mcnt, h.lastNsec, h.cpus⟩

/-- A TICK and an HUPD (vector HU1) that run: MCNT takes the cycle count, OFFSET the sample. -/
theorem witness_StepKeepsInvariant :
    (Inv (commanding (sampleHu1 50000#32 0#32) 0x20000000#32) ∧
      step (commanding (sampleHu1 50000#32 0#32) 0x20000000#32) =
        .next (stepped (commanding (sampleHu1 50000#32 0#32) 0x20000000#32)) ∧
      (stepped (commanding (sampleHu1 50000#32 0#32) 0x20000000#32)).mcnt = 77#64) ∧
      Inv (commanding (sampleHu1 50000#32 0#32) 0x30000000#32) ∧
      step (commanding (sampleHu1 50000#32 0#32) 0x30000000#32) =
        .next (stepped (commanding (sampleHu1 50000#32 0#32) 0x30000000#32)) ∧
      (stepped (commanding (sampleHu1 50000#32 0#32) 0x30000000#32)).clock.offset = 0x0000C35000000000#64 :=
  ⟨⟨inv_commanding_hu1 _ _ _, rfl, by decide⟩, inv_commanding_hu1 _ _ _, rfl, by decide⟩

theorem witness_ResetHasInvariant : Params.reference.Wf := by decide

theorem witness_BanksAreIsolated :
    step (accessing (writeAt 128 0x20000000#32)) = .next (stepped (accessing (writeAt 128 0x20000000#32))) ∧
      (accessing (writeAt 128 0x20000000#32)).pending = [writeAt 128 0x20000000#32] :=
  ⟨rfl, rfl⟩

/-- An inserted and a deleted second with the seconds of P2 and LD, the SECOVF after an inserted one, and commands that
move neither SEC nor TAI. -/
theorem witness_LeapShiftsOneSecond :
    (exec .secovf (rolling 1#3 86399#64 1000000000#32) = .next (ran .secovf (rolling 1#3 86399#64 1000000000#32)) ∧
      (ran .secovf (rolling 1#3 86399#64 1000000000#32)).clock.state = 3#3) ∧
      (exec .secovf (rolling 2#3 86398#64 1000000000#32) = .next (ran .secovf (rolling 2#3 86398#64 1000000000#32)) ∧
      (ran .secovf (rolling 2#3 86398#64 1000000000#32)).clock.state = 4#3) ∧
      (exec .secovf (rolling 3#3 86400#64 0#32) = .next (ran .secovf (rolling 3#3 86400#64 0#32)) ∧
      (ran .secovf (rolling 3#3 86400#64 0#32)).clock.tai = 1#32) ∧
      (-9223372036854775808 < (86398#64).toInt ∧ (86400#64).toInt < 9223372036854775806) ∧
      exec .sett bench = .next (ran .sett bench) ∧ exec .adjt bench = .next (ran .adjt bench) ∧
      exec .tick bench = .next (ran .tick bench) :=
  ⟨⟨rfl, by decide⟩, ⟨rfl, by decide⟩, ⟨rfl, by decide⟩, by decide, rfl, rfl, rfl⟩

end Sys2Proof.Tests
end

section
/-! PROOFS. No access is stuck and no command traps (60_exceptions.md R392, 20_memory.md R111); the reset state of every
admitted parameter choice has the invariant of 10_state.md R87. -/

namespace Sys2Proof.Machine

/-! ### One step, by what is pending -/

/-- A word written to CMD completes, whether it is a command or illegal (30_encoding.md R128). -/
theorem runWord_next (w : Word) (s : State) : ∃ t, runWord w s = .next t := by
  unfold runWord
  cases decode w with
  | command i => exact exec_next i s
  | illegal why => exact ⟨_, rfl⟩

theorem step_of_nil (s : State) (h : s.pending = []) : step s = .next s := by
  simp only [step, State.present, h, Presented.outcome]

theorem step_of_cons (s : State) (a : Access) (rest : List Access) (h : s.pending = a :: rest) :
    step s = (presentAccess { s with pending := rest } a).outcome := by
  simp only [step, State.present, h]

/-! An admitted access, by what it does (20_memory.md R93, R94). -/

theorem presentAccess_read (s : State) (a : Access) (hshape : a.shape = .word) (hin : a.addr < 128 * s.cfg.ncpu)
    (hkind : a.kind = .read) :
    presentAccess s a = .done { s with reads := ⟨a.addr, portRead s a.addr⟩ :: s.reads } := by
  simp [presentAccess, hshape, (inPortSpace_iff s a.addr).2 hin, hkind]

theorem presentAccess_cmd (s : State) (a : Access) (v : Word) (hshape : a.shape = .word)
    (hin : a.addr < 128 * s.cfg.ncpu) (hkind : a.kind = .write v) (hcmd : regAt (offsetOf a.addr) = some .cmd) :
    presentAccess s a = .command v (s.withIssue a) := by
  simp [presentAccess, hshape, (inPortSpace_iff s a.addr).2 hin, hkind, hcmd]

theorem presentAccess_write (s : State) (a : Access) (v : Word) (hshape : a.shape = .word)
    (hin : a.addr < 128 * s.cfg.ncpu) (hkind : a.kind = .write v) (hcmd : regAt (offsetOf a.addr) ≠ some .cmd) :
    presentAccess s a = .done (portWrite s a.addr v) := by
  simp [presentAccess, hshape, (inPortSpace_iff s a.addr).2 hin, hkind, hcmd]

/-- An admitted access is neither refused nor a fault: it reads, runs a command word, or writes another word. -/
theorem presentAccess_next (s : State) (a : Access) (hshape : a.shape = .word) (hin : a.addr < 128 * s.cfg.ncpu) :
    ∃ t, (presentAccess s a).outcome = .next t := by
  cases hkind : a.kind with
  | read => exact ⟨_, congrArg Presented.outcome (presentAccess_read s a hshape hin hkind)⟩
  | write v =>
    by_cases hcmd : regAt (offsetOf a.addr) = some .cmd
    · rw [presentAccess_cmd s a v hshape hin hkind hcmd]
      exact runWord_next v _
    · exact ⟨_, congrArg Presented.outcome (presentAccess_write s a v hshape hin hkind hcmd)⟩

theorem step_next_of_admitted (s : State) (a : Access) (rest : List Access) (hpending : s.pending = a :: rest)
    (hshape : a.shape = .word) (hin : a.addr < 128 * s.cfg.ncpu) : ∃ t, step s = .next t := by
  rw [step_of_cons s a rest hpending]
  exact presentAccess_next { s with pending := rest } a hshape hin

/-- Settles O11: every command completes, hence so does every access that is admitted, whether it runs one or not. -/
theorem everyAccessCompletes : Obligations.EveryAccessCompletes :=
  ⟨exec_next, step_next_of_admitted, step_of_nil⟩

/-! ### The invariant at reset -/

theorem fxWithin_zero {m : Int} (h : 0 ≤ m) : FxWithin 0#64 m := by
  have hbound : 0 ≤ m * fxOne := Int.mul_nonneg h (by decide)
  rw [FxWithin, BitVec.toInt_zero]
  exact ⟨Int.neg_nonpos_of_nonneg hbound, hbound⟩

theorem fractionOk_zero : FractionOk 0#32 := by
  unfold FractionOk
  decide

theorem clockInv_reset (c : Params) (h : 1 ≤ c.hz) : ClockInv c (Clock.reset c) where
  tc := Nat.zero_le _
  state := (by decide : (0#3).toNat ≤ 4)
  clockerr := (by decide : statusHas 0x0040#16 .clockerr = false)
  offset := fxWithin_zero (by decide)
  freq := fxWithin_zero (by decide)
  phase := by
    have hint : fxGetInt (Clock.reset c).phase = 0 := (by decide : fxGetInt 0#64 = 0)
    omega

theorem ppsInv_reset (c : Params) (h : 2 ≤ c.ppsShiftmaxReset ∧ c.ppsShiftmaxReset ≤ 15) : PpsInv (Pps.reset c) where
  shift := (by decide : 2 ≤ 2 ∧ 2 ≤ 15)
  shiftmax := h
  intcnt := (by decide : (-4 : Int) ≤ 0 ∧ (0 : Int) ≤ 4)
  freq := fxWithin_zero (by decide)
  tfn0 := fractionOk_zero
  tfn1 := fractionOk_zero
  tfn2 := fractionOk_zero
  jitter := (by decide : 0 ≤ (0#32).toInt ∧ (0#32).toInt ≤ 999999999)

/-- INITD is clear and the sample is 0, so no ratio is claimed and every width fits. -/
theorem cpuInv_reset (c : Params) : CpuInv c Cpu.reset where
  num := by decide
  den := by decide
  scnt := Nat.two_pow_pos c.cw
  stat := by decide

/-- Settles O57: the clock, the PPS filter and each processor have their part of the invariant at reset; only HZ and
PPS_SHIFTMAX_RESET enter it from the parameters. -/
theorem resetHasInvariant : Obligations.ResetHasInvariant := by
  intro c hc
  have ⟨_, _, _, hhz, _, _, _, _, _, _, _, _, hshiftLow, hshiftHigh, _⟩ := hc
  exact {
    cfg := hc
    ncpu := List.length_replicate
    clock := clockInv_reset c hhz
    pps := ppsInv_reset c ⟨hshiftLow, hshiftHigh⟩
    mcnt := Nat.two_pow_pos c.cw
    lastNsec := (by decide : 0 ≤ (0#32).toInt ∧ (0#32).toInt ≤ 999999999)
    cpus := fun u hu => List.eq_of_mem_replicate hu ▸ cpuInv_reset c }

end Sys2Proof.Machine
end

section
/-! PROOFS. What one command can do to the shared state (10_state.md R86, 40_fixedpoint.md R180): the FX commands and the
discipline do not meet, SEC and TAI have one owner each but for the administrative writes. -/

namespace Sys2Proof.Machine

/-! ### What a command can do -/

/-- All that an FX command can do: write one T register, write result words of its bank, or be illegal; each ends with
the STAT write (40_fixedpoint.md R170 to R179). -/
inductive FxEffect (s t : State) : Prop where
  | wroteT (r : BitVec 4) (v : Fx) (h : t = (s.writeT r v).complete)
  | wroteResults (f : Port → Port) (hstat : ∀ q, (f q).stat = q.stat) (h : t = (s.modifyPort f).complete)
  | illegal (h : t = s.raiseIllegal)

theorem fxEffect_writeT {s t : State} {legal : Bool} {r : BitVec 4} {v : Fx}
    (h : (.next (s.completeIf legal (s.writeT r v)) : Host.Outcome State Fault Refusal) = .next t) : FxEffect s t := by
  cases h
  cases legal with
  | true => exact .wroteT r v rfl
  | false => exact .illegal rfl

theorem fxEffect_modifyPort {s t : State} {legal : Bool} {f : Port → Port}
    (h : (.next (s.completeIf legal (s.modifyPort f)) : Host.Outcome State Fault Refusal) = .next t)
    (hstat : ∀ q, (f q).stat = q.stat) : FxEffect s t := by
  cases h
  cases legal with
  | true => exact .wroteResults f hstat rfl
  | false => exact .illegal rfl

theorem fxEffect_of_exec {i : Instr} {s t : State} (hfx : isFx i = true) (h : exec i s = .next t) : FxEffect s t := by
  cases i with
  | fxadd rd rs => exact fxEffect_writeT h
  | fxsub rd rs => exact fxEffect_writeT h
  | fxneg rd => exact fxEffect_writeT h
  | fxrsh rd sh => exact fxEffect_writeT h
  | fxmul rd => exact fxEffect_writeT h
  | fxlint rd => exact fxEffect_writeT h
  | fxgint rs => exact fxEffect_modifyPort h fun _ => rfl
  | fxclr rd => exact fxEffect_writeT h
  | fxld rd => exact fxEffect_writeT h
  | fxst rs => exact fxEffect_modifyPort h fun _ => rfl
  | _ => cases hfx

theorem FxEffect.clock {s t : State} (h : FxEffect s t) : t.clock = s.clock := by
  cases h <;> subst t <;> rfl

/-- The results and STAT are port words, so no interpolation state moves. -/
theorem FxEffect.interps {s t : State} (h : FxEffect s t) : InterpsKept s t := by
  cases h with
  | wroteT r v h => exact h ▸ State.interps_finish (s.writeT r v) flagsNone
  | wroteResults f _ h =>
    subst h
    intro p
    exact (State.interps_finish (s.modifyPort f) flagsNone p).trans (State.interp_modifyPort s f p)
  | illegal h => exact h ▸ State.interps_finish s _

theorem FxEffect.disciplineKept {s t : State} (h : FxEffect s t) :
    t.clock = s.clock ∧ t.pps = s.pps ∧ t.mcnt = s.mcnt ∧ LastKept s t ∧ InterpsKept s t := by
  have hinterps := h.interps
  cases h <;> subst t <;> exact ⟨rfl, rfl, rfl, ⟨rfl, rfl⟩, hinterps⟩

/-- ADJT is denied, or writes clock, PPS filter and snapshot (41_control.md R190, R192). -/
theorem exec_adjt_cases {s t : State} (h : exec .adjt s = .next t) :
    t = s.raiseDenied ∨
      t = ({ s with
          clock := adjustClock s.cfg s.port.req s.clock
          pps := adjustPps s.port.req s.clock s.pps }.modifyPort fun q =>
            { q with
              rsp :=
                snapshot (adjustClock s.cfg s.port.req s.clock)
                  (adjustPps s.port.req s.clock s.pps) }).complete := by
  simp only [exec, execAdjt] at h
  split at h <;> cases h
  · exact .inl rfl
  · exact .inr rfl

/-- SETT is denied, or sets SEC and NSEC (42_tick_second.md R252). -/
theorem exec_sett_cases {s t : State} (h : exec .sett s = .next t) :
    t = s.raiseDenied ∨
      t = ({ s with
          clock :=
            { s.clock with
              sec := s.port.argPair
              nsec := wrap32 (clampInt s.port.arg2.toInt 0 (nanosecond - 1)) } } : State).complete := by
  simp only [exec, execSett] at h
  split at h <;> cases h
  · exact .inl rfl
  · exact .inr rfl

/-! ### FX and the discipline -/

theorem regs_of_exec_discipline {i : Instr} {s t : State} (hfx : isFx i = false) (h : exec i s = .next t) :
    t.t = s.t := by
  cases i with
  | adjt => rcases exec_adjt_cases h with rfl | rfl <;> rfl
  | gett => cases h; rfl
  | tick => cases h; rfl
  | secovf => cases h; rfl
  | sett => rcases exec_sett_cases h with rfl | rfl <;> rfl
  | hupd => cases h; rfl
  | hpps => cases h; rfl
  | calib => cases h; rfl
  | now => cases h; rfl
  | _ => cases hfx

/-- Settles O26: by what an FX command can do, and command by command for the nine others. -/
theorem fxAndDisciplineDoNotMeet : Obligations.FxAndDisciplineDoNotMeet := fun _ _ _ h =>
  ⟨fun hfx => (fxEffect_of_exec hfx h).disciplineKept, fun hfx => regs_of_exec_discipline hfx h⟩

/-! ### What HPPS can leave -/

/-- The ends of an edge that passed the gate: the interval goes on, or it is restarted and rejected or accepted
(44_pps.md R321 to R330). -/
theorem closeInterval_cases (c : Params) (f : Filter) (e : Edge) (free : BitVec 32) :
    closeInterval c f e free = f ∨
      closeInterval c f e free = rejectInterval { f with pps := restartInterval f.pps e } ∨
      closeInterval c f e free =
        acceptInterval c { f with pps := restartInterval f.pps e } f.pps.fcount.toInt free := by
  cases hopen : intervalOpen f.pps e with
  | true => exact .inl (closeInterval_open c f e free hopen)
  | false =>
    cases hbad : intervalBad f.pps e with
    | true => exact .inr (.inl (closeInterval_bad c f e free hopen hbad))
    | false => exact .inr (.inr (closeInterval_good c f e free hopen hbad))

/-- An edge is a duplicate, is gated after it was recorded, or passes and may end the interval (R305, R306). -/
theorem hppsFilter_cases (s : State) :
    s.hppsFilter = ppsEntry s.cfg ⟨s.clock, s.pps⟩ s.edge s.port.arg3 ∨
      s.hppsFilter = s.hppsRecorded ∨
      s.hppsFilter = closeInterval s.cfg s.hppsFiltered s.edge (ppsFree s.draws).stabil := by
  by_cases hnew : s.edgeIsNew
  · by_cases hpass : s.edgePasses
    · exact .inr (.inr (hppsFilter_passed s hnew hpass))
    · exact .inr (.inl (hppsFilter_gated s hnew hpass))
  · exact .inl (hppsFilter_duplicate s hnew)

theorem closeInterval_clock (c : Params) (f : Filter) (e : Edge) (free : BitVec 32) :
    (closeInterval c f e free).clock =
      { f.clock with
        status := (closeInterval c f e free).clock.status
        freq := (closeInterval c f e free).clock.freq } := by
  rcases closeInterval_cases c f e free with h | h | h <;> rw [h] <;> rfl

/-- HPPS changes OFFSET, FREQ and STATUS of the clock and nothing else of it (10_state.md R86). -/
theorem hppsFilter_clock (s : State) :
    s.hppsFilter.clock =
      { s.clock with
        offset := s.hppsFilter.clock.offset
        freq := s.hppsFilter.clock.freq
        status := s.hppsFilter.clock.status } := by
  rcases hppsFilter_cases s with h | h | h <;> rw [h]
  · rfl
  · rfl
  · rw [closeInterval_clock]
    rfl

/-! ### SEC and TAI -/

/-- SEC after the normalisation: one more where a second is due (42_tick_second.md R240). -/
theorem normaliseSecond_sec (k : Clock) (h : k.sec.toInt < 9223372036854775807) :
    (normaliseSecond k).sec.toInt = k.sec.toInt + if 1000000000 ≤ k.nsec.toInt then 1 else 0 := by
  have hb := toInt64_bounds k.sec
  simp only [normaliseSecond, secPending, decide_eq_true_eq]
  split_ifs
  · exact wrap64_toInt _ (by omega) (by omega)
  · omega

/-- The rows of the leap table that move SEC or TAI: a second inserted, a second deleted, and the SECOVF after an
inserted one; in every other row STATE alone may change (42_tick_second.md R242). -/
theorem leapStep_cases (k : Clock) :
    (k.state = 1#3 ∧ leapStep k = { k with sec := wrap64 (k.sec.toInt - 1), state := 3#3 }) ∨
      (k.state = 2#3 ∧
        leapStep k = { k with sec := wrap64 (k.sec.toInt + 1), tai := wrap32 (k.tai.toInt - 1), state := 4#3 }) ∨
      (k.state = 3#3 ∧ leapStep k = { k with tai := wrap32 (k.tai.toInt + 1), state := 4#3 }) ∨
      (¬(k.state = 1#3 ∧ (leapStep k).state = 3#3) ∧ ¬(k.state = 2#3 ∧ (leapStep k).state = 4#3) ∧ k.state ≠ 3#3 ∧
        leapStep k = { k with state := (leapStep k).state }) := by
  generalize hj : leapStep k = j
  unfold leapStep at hj
  split at hj
  case h_1 hins =>
    split at hj <;> subst hj
    · exact .inl ⟨hins, rfl⟩
    · exact .inr (.inr (.inr ⟨by simp [hins], by simp [hins], by simp [hins], rfl⟩))
  case h_2 hdel =>
    split at hj <;> subst hj
    · exact .inr (.inl ⟨hdel, rfl⟩)
    · exact .inr (.inr (.inr ⟨by simp [hdel], by simp [hdel], by simp [hdel], rfl⟩))
  case h_3 hoop =>
    subst hj
    exact .inr (.inr (.inl ⟨hoop, rfl⟩))
  case h_4 hwait =>
    refine .inr (.inr (.inr ⟨by simp [hwait], by simp [hwait], by simp [hwait], ?_⟩))
    split at hj <;> subst hj <;> rfl
  case h_5 hins hdel hoop _ =>
    subst hj
    exact .inr (.inr (.inr ⟨fun h => hins h.1, fun h => hdel h.1, hoop, rfl⟩))

theorem leapStep_sec (k : Clock) :
    (leapStep k).sec =
      if k.state = 1#3 ∧ (leapStep k).state = 3#3 then wrap64 (k.sec.toInt - 1)
      else if k.state = 2#3 ∧ (leapStep k).state = 4#3 then wrap64 (k.sec.toInt + 1)
      else k.sec := by
  rcases leapStep_cases k with ⟨hst, h⟩ | ⟨hst, h⟩ | ⟨hst, h⟩ | ⟨hins, hdel, _, h⟩
  · simp [h, hst]
  · simp [h, hst]
  · simp [h, hst]
  · rw [if_neg hins, if_neg hdel, h]

theorem wrap32_add (x y : Int) : wrap32 (x + y) = wrap32 x + wrap32 y := BitVec.ofInt_add x y

theorem wrap32_of_toInt (v : BitVec 32) : wrap32 v.toInt = v := BitVec.ofInt_toInt

theorem wrap32_toInt_sub_one (v : BitVec 32) : wrap32 (v.toInt - 1) = v - 1#32 := by
  rw [Int.sub_eq_add_neg, wrap32_add, wrap32_of_toInt, BitVec.sub_eq_add_neg]
  rfl

theorem wrap32_toInt_add_one (v : BitVec 32) : wrap32 (v.toInt + 1) = v + 1#32 := by
  rw [wrap32_add, wrap32_of_toInt]
  rfl

theorem leapStep_tai (k : Clock) :
    (leapStep k).tai =
      if k.state = 2#3 ∧ (leapStep k).state = 4#3 then k.tai - 1#32
      else if k.state = 3#3 then k.tai + 1#32
      else k.tai := by
  rcases leapStep_cases k with ⟨hst, h⟩ | ⟨hst, h⟩ | ⟨hst, h⟩ | ⟨_, hdel, hoop, h⟩
  · simp [h, hst]
  · simp [h, hst, wrap32_toInt_sub_one]
  · simp [h, hst, wrap32_toInt_add_one]
  · rw [if_neg hdel, if_neg hoop, h]

/-- The clock the leap machine of SECOVF starts from: normalised, with the tolerance added (42_tick_second.md R240,
R241). -/
def State.rolledClock (s : State) : Clock := growMaxerror s.cfg (normaliseSecond s.clock)

/-- What SECOVF reads of the old clock there. -/
theorem State.rolledClock_kept (s : State) :
    s.rolledClock.sec = (normaliseSecond s.clock).sec ∧ s.rolledClock.state = s.clock.state ∧
      s.rolledClock.tai = s.clock.tai := by
  rw [State.rolledClock, growMaxerror, normaliseSecond_frame]
  exact ⟨rfl, rfl, rfl⟩

/-- SECOVF leaves SEC, STATE and TAI as the leap machine does (R246 to R248 touch none of them). -/
theorem exec_secovf_leap {s t : State} (h : exec .secovf s = .next t) :
    t.clock.sec = (leapStep s.rolledClock).sec ∧ t.clock.state = (leapStep s.rolledClock).state ∧
      t.clock.tai = (leapStep s.rolledClock).tai := by
  cases h
  rw [State.complete_clock, expireSignal_frame]
  exact ⟨rfl, rfl, rfl⟩

theorem exec_secovf_tai {s t : State} (h : exec .secovf s = .next t) :
    t.clock.tai =
      if s.clock.state = 2#3 ∧ t.clock.state = 4#3 then s.clock.tai - 1#32
      else if s.clock.state = 3#3 then s.clock.tai + 1#32
      else s.clock.tai := by
  obtain ⟨-, hstate, htai⟩ := exec_secovf_leap h
  obtain ⟨-, hstate', htai'⟩ := s.rolledClock_kept
  rw [htai, leapStep_tai, ← hstate, hstate', htai']

/-- In integers, with SEC away from the ends of its range, so that neither move wraps. -/
theorem exec_secovf_sec {s t : State} (h : exec .secovf s = .next t)
    (hlow : -9223372036854775808 < s.clock.sec.toInt) (hhigh : s.clock.sec.toInt < 9223372036854775806) :
    t.clock.sec.toInt - s.clock.sec.toInt - (if 1000000000 ≤ s.clock.nsec.toInt then 1 else 0) =
      if s.clock.state = 1#3 ∧ t.clock.state = 3#3 then -1
      else if s.clock.state = 2#3 ∧ t.clock.state = 4#3 then 1
      else 0 := by
  obtain ⟨hsec, hstate, -⟩ := exec_secovf_leap h
  obtain ⟨hsec', hstate', -⟩ := s.rolledClock_kept
  have hdue := normaliseSecond_sec s.clock (by omega)
  rw [← hsec'] at hdue
  rw [hsec, leapStep_sec, ← hstate, hstate']
  have hless : (wrap64 (s.rolledClock.sec.toInt - 1)).toInt = s.rolledClock.sec.toInt - 1 :=
    wrap64_toInt _ (by omega) (by omega)
  have hmore : (wrap64 (s.rolledClock.sec.toInt + 1)).toInt = s.rolledClock.sec.toInt + 1 :=
    wrap64_toInt _ (by omega) (by omega)
  split_ifs <;> omega

/-- SEC has two owners, SECOVF and SETT, and TAI two, SECOVF and ADJT (10_state.md R86). -/
theorem sec_tai_of_exec {i : Instr} {s t : State} (h : exec i s = .next t) (hi : i ≠ .secovf) :
    (i ≠ .sett → t.clock.sec = s.clock.sec) ∧ (i ≠ .adjt → t.clock.tai = s.clock.tai) := by
  cases hfx : isFx i with
  | true => rw [(fxEffect_of_exec hfx h).clock]; exact ⟨fun _ => rfl, fun _ => rfl⟩
  | false =>
    cases i with
    | adjt =>
      refine ⟨fun _ => ?_, fun hne => absurd rfl hne⟩
      rcases exec_adjt_cases h with rfl | rfl
      · rfl
      · show (adjustClock s.cfg s.port.req s.clock).sec = s.clock.sec
        rw [adjustClock_frame, adjustEarly_eq]
    | sett =>
      refine ⟨fun hne => absurd rfl hne, fun _ => ?_⟩
      rcases exec_sett_cases h with rfl | rfl <;> rfl
    | hupd =>
      cases h
      rw [State.complete_clock, hardUpdate_frame]
      exact ⟨fun _ => rfl, fun _ => rfl⟩
    | hpps =>
      cases (exec_hpps s).symm.trans h
      rw [State.complete_clock, hppsFilter_clock]
      exact ⟨fun _ => rfl, fun _ => rfl⟩
    | secovf => exact absurd rfl hi
    | gett => cases h; exact ⟨fun _ => rfl, fun _ => rfl⟩
    | tick => cases h; exact ⟨fun _ => rfl, fun _ => rfl⟩
    | calib => cases h; exact ⟨fun _ => rfl, fun _ => rfl⟩
    | now => cases h; exact ⟨fun _ => rfl, fun _ => rfl⟩
    | _ => cases hfx

/-- Settles O60: SECOVF by the leap table after the normalisation, every other command by its frame. -/
theorem leapShiftsOneSecond : Obligations.LeapShiftsOneSecond :=
  ⟨fun _ _ h => ⟨exec_secovf_tai h, exec_secovf_sec h⟩, fun _ _ _ h hi => sec_tai_of_exec h hi⟩

end Sys2Proof.Machine
end

section
/-! PROOFS. Every step keeps the invariant of 10_state.md R87: each part of it by the operation that touches it, then the
commands, then the accesses of the port. -/

namespace Sys2Proof.Machine

/-! ### Ranges of what the fixed-point unit writes -/

theorem fxWithin_fxLoadInt {i m : Int} (hm : m < 2147483648) (hlow : -m ≤ i) (hhigh : i ≤ m) :
    FxWithin (fxLoadInt i) m := by
  rw [FxWithin, fxLoadInt_toInt i (by omega) (by omega), fxOne]
  omega

theorem fxWithin_fxClampMag (a : Fx) {m : Int} (h0 : 0 ≤ m) (hm : m < 2147483648) : FxWithin (fxClampMag a m) m := by
  rw [FxWithin, fxClampMag_toInt a m h0 hm, fxOne]
  omega

/-- Spending a share of a value leaves the rest, between 0 and the value (42_tick_second.md R246). -/
theorem fxWithin_spent {v : Fx} {m : Int} (h : FxWithin v m) (n : Nat) :
    FxWithin (wrap64 (v.toInt - v.toInt / 2 ^ n)) m := by
  have hb := toInt64_bounds v
  have hshare := decay_bounds 0 v.toInt n
  rw [Int.zero_add, Int.sub_zero] at hshare
  obtain ⟨hlow, hhigh⟩ := h
  rw [FxWithin, wrap64_toInt _ (by omega) (by omega)]
  omega

/-! ### The clock state -/

theorem loadOffset_offset (k : Clock) (m : Int) :
    (loadOffset k m).offset = k.offset ∨ (loadOffset k m).offset = fxLoadInt m := by
  unfold loadOffset
  split
  · exact .inl rfl
  · exact .inr rfl

theorem loadOffset_freq (k : Clock) (m : Int) : (loadOffset k m).freq = k.freq := by
  unfold loadOffset
  split <;> rfl

theorem hardUpdate_offset (c : Params) (k : Clock) (x : Int) :
    (hardUpdate c k x).offset = k.offset ∨ (hardUpdate c k x).offset = fxLoadInt (clampSample x) := by
  unfold hardUpdate
  dsimp only
  split_ifs
  · exact .inl rfl
  · exact loadOffset_offset k _
  · exact loadOffset_offset k _

theorem hardUpdate_freq (c : Params) (k : Clock) (x : Int) :
    (hardUpdate c k x).freq = k.freq ∨ ∃ a, (hardUpdate c k x).freq = fxClampMag a maxFreq := by
  unfold hardUpdate
  dsimp only
  split_ifs
  · exact .inl rfl
  · exact .inl (loadOffset_freq k _)
  · exact .inr ⟨_, rfl⟩

/-- The estimator keeps the ranges: the sample is limited to MAXPHASE, the frequency to MAXFREQ (43_pll_fll.md R274,
R283). -/
theorem ClockInv.hardUpdate {c : Params} {k : Clock} (h : ClockInv c k) (x : Int) :
    ClockInv c (hardUpdate c k x) where
  tc := by rw [hardUpdate_frame]; exact h.tc
  state := by rw [hardUpdate_frame]; exact h.state
  clockerr := (hardUpdate_status c k x 12 (by decide)).trans h.clockerr
  offset := by
    rcases hardUpdate_offset c k x with ho | ho <;> rw [ho]
    · exact h.offset
    · exact fxWithin_fxLoadInt (by decide) (clampSample_bounds x).1 (clampSample_bounds x).2
  freq := by
    rcases hardUpdate_freq c k x with hf | ⟨a, hf⟩ <;> rw [hf]
    · exact h.freq
    · exact fxWithin_fxClampMag a (by decide) (by decide)
  phase := by rw [hardUpdate_frame]; exact h.phase

/-- The writes of ADJT before the estimator: TC is clamped, STATE at most reset, CLOCKERR cleared or kept
(41_control.md R194 to R196). -/
theorem ClockInv.adjustEarly {c : Params} {k : Clock} (h : ClockInv c k) (r : Req) :
    ClockInv c (adjustEarly c r k) where
  tc := by
    rw [adjustEarly_eq]
    dsimp only
    split_ifs
    · rw [clampInt_eq _ _ _ (by omega)]
      omega
    · exact h.tc
  state := by
    rw [adjustEarly_eq]
    dsimp only
    split_ifs
    · decide
    · exact h.state
  clockerr := by
    have hk : k.status.getLsbD 12 = false := h.clockerr
    show (Machine.adjustEarly c r k).status.getLsbD 12 = false
    rw [adjustEarly_status, if_neg (by decide), if_neg (by decide), if_neg (by decide), hk, Bool.and_false]
  offset := by rw [adjustEarly_eq]; exact h.offset
  freq := by rw [adjustEarly_eq]; exact h.freq
  phase := by rw [adjustEarly_eq]; exact h.phase

theorem ClockInv.writeOffset {c : Params} {k : Clock} (h : ClockInv c k) (r : Req) : ClockInv c (writeOffset c r k) := by
  unfold Machine.writeOffset
  split
  · exact h.hardUpdate _
  · exact h

/-- The frequency write clamps in integers (41_control.md R202). -/
theorem ClockInv.writeFrequency {c : Params} {k : Clock} (h : ClockInv c k) (r : Req) :
    ClockInv c (writeFrequency r k) := by
  unfold Machine.writeFrequency
  split
  · refine { h with freq := ?_ }
    simp only [FxWithin, maxFreq, fxOne]
    rw [clampInt_eq _ _ _ (by decide), wrap64_toInt _ (by omega) (by omega)]
    omega
  · exact h

theorem ClockInv.adjustClock {c : Params} {k : Clock} (h : ClockInv c k) (r : Req) : ClockInv c (adjustClock c r k) :=
  ((h.adjustEarly r).writeOffset r).writeFrequency r

/-- TICK leaves in PHASE the remainder by HZ, so its integral part is in [0, HZ - 1] (42_tick_second.md R235). -/
theorem ClockInv.tickAdjust {c : Params} {k : Clock} (h : ClockInv c k) (hlow : 1 ≤ c.hz) (hhigh : c.hz ≤ 1000000000)
    (residualUs : Int) : ClockInv c (tickAdjust c k residualUs) := by
  rw [tickAdjust_eq]
  refine { h with phase := ?_ }
  rw [fxGetInt_eq]
  generalize (k.phase + k.adj).toInt = acc
  have hnonneg := Int.emod_nonneg (acc / 4294967296) (show (c.hz : Int) ≠ 0 by omega)
  have hlt := Int.emod_lt_of_pos (acc / 4294967296) (show 0 < (c.hz : Int) by omega)
  have hdiv := Int.emod_add_ediv_mul (acc / 4294967296) c.hz
  generalize acc / 4294967296 / c.hz * c.hz = whole at hdiv ⊢
  rw [wrap64_toInt _ (by omega) (by omega)]
  omega

/-- SECOVF spends at most 31 bits of OFFSET: PPS_SHIFT is at most 15 and PLL_GAIN + TC at most 31 (00_scope.md R12). -/
theorem spendShift_lt {c : Params} {k : Clock} {v : Pps} (hc : c.Wf) (hk : ClockInv c k) (hv : PpsInv v) :
    spendShift c k v < 64 := by
  obtain ⟨_, _, _, _, _, _, _, hgain, _⟩ := hc
  have htc := hk.tc
  have hshift := hv.shift
  unfold spendShift
  split_ifs <;> omega

theorem ClockInv.secondClock {c : Params} {k : Clock} {v : Pps} (hc : c.Wf) (h : ClockInv c k) (hv : PpsInv v) :
    ClockInv c (secondClock c k v) := by
  rw [secondClock_eq c k v (spendShift_lt hc h hv)]
  exact { h with
    state := leapStep_state _
    offset := fxWithin_spent h.offset _ }

/-- A write of a STATUS bit other than CLOCKERR. -/
theorem ClockInv.put {c : Params} {k : Clock} (h : ClockInv c k) (b : StatusBit) (v : Bool) (hb : .clockerr ≠ b) :
    ClockInv c (k.put b v) :=
  { h with clockerr := (Clock.has_put_ne k _ b v hb).trans h.clockerr }

theorem ClockInv.expireSignal {c : Params} {k : Clock} (h : ClockInv c k) (v : Pps) :
    ClockInv c (expireSignal k v) := by
  unfold Machine.expireSignal
  split
  · exact h.put _ _ (by decide)
  · exact h

/-! ### The PPS filter state -/

/-- Only the clamped PPS_SHIFTMAX and the reset PPS_SHIFT come from ADJT (41_control.md R194, R198). -/
theorem PpsInv.adjustPps {v : Pps} (h : PpsInv v) (r : Req) (k : Clock) : PpsInv (adjustPps r k v) :=
  { h with
    shift := by
      have := h.shift
      dsimp only [Machine.adjustPps]
      split_ifs <;> omega
    shiftmax := by
      have := h.shiftmax
      dsimp only [Machine.adjustPps]
      rw [clampInt_eq _ _ _ (by decide)]
      split_ifs <;> omega }

theorem PpsInv.countDown {v : Pps} (h : PpsInv v) : PpsInv (countDown v) := by
  unfold Machine.countDown
  split
  · exact { h with }
  · exact h

/-- The invariant on the part of the shared state that HPPS works on. -/
structure FilterInv (c : Params) (f : Filter) : Prop where
  /-- The clock state. -/
  clock : ClockInv c f.clock
  /-- The PPS filter state. -/
  pps : PpsInv f.pps

/-- The first edge starts the interval and the counter reference, which have no range (44_pps.md R303). -/
theorem PpsInv.ppsFirst {v : Pps} (h : PpsInv v) (e : Edge) (count : BitVec 32) : PpsInv (ppsFirst v e count) := by
  unfold Machine.ppsFirst
  split
  · exact h
  · exact { h with }

theorem entryStatus_clockerr (w : BitVec 16) : statusHas (entryStatus w) .clockerr = statusHas w .clockerr := by
  simp [entryStatus, statusHas_put_ne]

/-- The entry actions write STATUS bits 8 to 11 and PPS_VALID (44_pps.md R304). -/
theorem FilterInv.ppsEntry {c : Params} {f : Filter} (h : FilterInv c f) (e : Edge) (count : BitVec 32) :
    FilterInv c (ppsEntry c f e count) where
  clock := { h.clock with clockerr := (entryStatus_clockerr _).trans h.clock.clockerr }
  pps := { h.pps.ppsFirst e count with }

/-- A recorded edge: its fraction is that of a nearest second (44_pps.md R302, R307). -/
theorem filterInv_hppsRecorded {s : State} (h : FilterInv s.cfg ⟨s.clock, s.pps⟩) :
    FilterInv s.cfg s.hppsRecorded where
  clock := by
    have hentry := (h.ppsEntry s.edge s.port.arg3).clock
    simp only [Machine.ppsEntry, entryStatus_eq] at hentry
    exact hentry
  pps := by
    have hstart := h.pps.ppsFirst s.edge s.port.arg3
    rw [ppsFirst_eq] at hstart
    have hedge := edge_bounds s
    exact { hstart with
      tfn0 := by
        have he : (BitVec.ofInt 32 s.edge.nsec).toInt = s.edge.nsec := wrap32_toInt _ (by omega) (by omega)
        show FractionOk (BitVec.ofInt 32 s.edge.nsec)
        rwa [FractionOk, he]
      tfn1 := h.pps.tfn0
      tfn2 := h.pps.tfn1 }

/-- The median of the window is a fraction and its span below a second (44_pps.md R315). -/
theorem PpsInv.window {v : Pps} (h : PpsInv v) :
    -500000000 ≤ windowMedian v ∧ windowMedian v ≤ 499999999 ∧ 0 ≤ windowSpan v ∧ windowSpan v ≤ 999999999 :=
  median_bounds _ _ _ (-500000000) 499999999 h.tfn0 h.tfn1 h.tfn2

/-- The jitter average lies between its old value and the span (44_pps.md R319). -/
theorem PpsInv.decayJitter {v : Pps} (h : PpsInv v) (c : Params) (free : BitVec 32) :
    0 ≤ (decayJitter c v free).toInt ∧ (decayJitter c v free).toInt ≤ 999999999 := by
  obtain ⟨-, -, hspan⟩ := h.window
  have hold := h.jitter
  have hdecay := decay_bounds v.jitter.toInt (windowSpan v) c.ppsAvg
  rw [Machine.decayJitter, fitS32_toInt _ _ (by rw [FitsS32]; omega)]
  omega

theorem FilterInv.filterPhase {c : Params} {f : Filter} (h : FilterInv c f) (free : BitVec 32) :
    FilterInv c (filterPhase c f free) where
  clock := { h.clock with
    clockerr := (statusHas_put_ne _ _ _ _ (by decide)).trans h.clock.clockerr
    offset := by
      obtain ⟨hlow, hhigh, -⟩ := h.pps.window
      dsimp only [Machine.filterPhase]
      split_ifs
      · exact fxWithin_fxLoadInt (by decide) (show -500000000 ≤ _ by omega) (show _ ≤ 500000000 by omega)
      · exact h.clock.offset }
  pps := { h.pps with jitter := h.pps.decayJitter c free }

theorem FilterInv.restartInterval {c : Params} {f : Filter} (h : FilterInv c f) (e : Edge) :
    FilterInv c { f with pps := restartInterval f.pps e } :=
  ⟨h.clock, { h.pps with }⟩

theorem FilterInv.rejectInterval {c : Params} {f : Filter} (h : FilterInv c f) : FilterInv c (rejectInterval f) :=
  ⟨h.clock.put _ _ (by decide), { h.pps with }⟩

/-- The shift stays in its range and the up/down counter, which an interval moves by one, returns to its own
(44_pps.md R327). -/
theorem PpsInv.adaptShift {v : Pps} (h : PpsInv v) {n : Int} (hlow : -5 ≤ n) (hhigh : n ≤ 5) :
    PpsInv (adaptShift { v with intcnt := n }) := by
  have hshift := h.shift
  have hmax := h.shiftmax
  rw [adaptShift_eq]
  exact { h with
    shift := by dsimp only; split_ifs <;> omega
    intcnt := by dsimp only; split_ifs <;> omega }

theorem FilterInv.acceptInterval {c : Params} {f : Filter} (h : FilterInv c f) (tot : Int) (free : BitVec 32) :
    FilterInv c (acceptInterval c f tot free) where
  clock := { h.clock with
    clockerr := by
      dsimp only [Machine.acceptInterval, Clock.has]
      split_ifs
      · exact (statusHas_put_ne _ _ _ _ (by decide)).trans h.clock.clockerr
      · exact h.clock.clockerr
    freq := by
      dsimp only [Machine.acceptInterval]
      split_ifs
      · exact fxWithin_fxClampMag _ (by decide) (by decide)
      · exact h.clock.freq }
  pps := by
    have hcount := h.pps.intcnt
    exact { h.pps.adaptShift (v := f.pps) (by split_ifs <;> omega) (by split_ifs <;> omega) with
      freq := fxWithin_fxClampMag _ (by decide) (by decide) }

theorem FilterInv.closeInterval {c : Params} {f : Filter} (h : FilterInv c f) (e : Edge) (free : BitVec 32) :
    FilterInv c (closeInterval c f e free) := by
  rcases closeInterval_cases c f e free with hc | hc | hc <;> rw [hc]
  · exact h
  · exact (h.restartInterval e).rejectInterval
  · exact (h.restartInterval e).acceptInterval _ _

theorem filterInv_hppsFilter {s : State} (h : FilterInv s.cfg ⟨s.clock, s.pps⟩) : FilterInv s.cfg s.hppsFilter := by
  rcases hppsFilter_cases s with hf | hf | hf <;> rw [hf]
  · exact h.ppsEntry _ _
  · exact filterInv_hppsRecorded h
  · exact ((filterInv_hppsRecorded h).filterPhase _).closeInterval _ _

end Sys2Proof.Machine
end

section
/-! PROOFS. The invariant of 10_state.md R87 on the whole machine: what a change of one processor has to keep, then every
command, every access of the port and every step. -/

namespace Sys2Proof.Machine

/-! ### One processor -/

/-- STAT bits 31:8 and 3 are written 0 (30_encoding.md R129). -/
theorem statWord_reserved (k : Clock) (f : CmdFlags) : statWord k f &&& 0xFFFFFF08#32 = 0#32 := by
  have hmask : ∀ i < 32, (0xFFFFFF08#32).getLsbD i = true → i = 3 ∨ 8 ≤ i := by decide
  apply BitVec.eq_of_getLsbD_eq
  intro i hi
  rw [BitVec.getLsbD_and, BitVec.getLsbD_zero, statWord_getLsbD]
  cases hbit : (0xFFFFFF08#32).getLsbD i with
  | false => exact Bool.and_false _
  | true =>
    have := hmask i hi hbit
    rw [if_neg (by omega), if_neg (by omega), if_neg (by omega), if_neg (by omega), if_neg (by omega), Bool.false_and]

/-- Only STAT of a bank is in the invariant. -/
theorem CpuInv.withPort {c : Params} {u : Cpu} (h : CpuInv c u) {q : Port} (hstat : q.stat = u.port.stat) :
    CpuInv c { u with port := q } :=
  { h with stat := hstat ▸ h.stat }

theorem CpuInv.withStat {c : Params} {u : Cpu} (h : CpuInv c u) (k : Clock) (f : CmdFlags) :
    CpuInv c { u with port := { u.port with stat := statWord k f } } :=
  { h with stat := statWord_reserved k f }

/-- A count difference fills CW bits at most, so it fits the register whole (10_state.md R72). -/
theorem wrap64_cycDelta_toNat (c : Params) (x y : BitVec 64) (h : c.cw ≤ 64) :
    ((wrap64 (cycDelta c x y)).toNat : Int) = cycDelta c x y := by
  obtain ⟨hlow, hhigh⟩ := cycDelta_bounds c x y
  have hpow : ((2 ^ c.cw : Nat) : Int) ≤ (2 ^ 64 : Nat) := by
    exact_mod_cast Nat.pow_le_pow_right (by decide) h
  rw [wrap64, BitVec.toNat_ofInt]
  omega

/-- The first CALIB takes the rated frequency, a later one a positive sample only (45_interpolator.md R352, R354). -/
theorem calibRatio_positive {c : Params} (hc : c.Wf) (k : Clock) {u : Interp} (now : BitVec 64)
    (hnum : u.initd = true → 1 ≤ u.num.toInt) (hden : u.initd = true → 1 ≤ u.den.toNat) :
    1 ≤ (calibRatio c k u now).num.toInt ∧ 1 ≤ (calibRatio c k u now).den.toNat := by
  obtain ⟨_, _, hcw, _, _, hrated, hrated', _⟩ := hc
  cases hinit : u.initd with
  | false =>
    have hseed : calibRatio c k u now =
        { u with num := wrap64 nanosecond, den := BitVec.ofNat 64 c.cpuHz, initd := true } := by
      simp [calibRatio, hinit]
    have hseedDen : (BitVec.ofNat 64 c.cpuHz).toNat = c.cpuHz := Nat.mod_eq_of_lt hrated'
    rw [hseed]
    exact ⟨(by decide : 1 ≤ (wrap64 nanosecond).toInt), hseedDen.symm ▸ hrated⟩
  | true =>
    rw [calibRatio_later c k u now hinit]
    split_ifs with hgood
    · obtain ⟨hpos, hfits, hcounts⟩ := hgood
      have hdelta := wrap64_cycDelta_toNat c now u.scnt hcw
      refine ⟨?_, by dsimp only; omega⟩
      rw [wrap64_toInt _ (by omega) (by omega)]
      omega
    · exact ⟨hnum hinit, hden hinit⟩

theorem CpuInv.calibrate {c : Params} (hc : c.Wf) {u : Cpu} (h : CpuInv c u) (k : Clock) {now : BitVec 64}
    (hnow : now.toNat < 2 ^ c.cw) : CpuInv c { u with interp := calibrate c k u.interp now } :=
  { h with
    num := fun _ => (calibRatio_positive hc k now h.num h.den).1
    den := fun _ => (calibRatio_positive hc k now h.num h.den).2
    scnt := hnow }

/-! ### Changes of one bank, and the ends of a command -/

theorem Inv.modifyCpu {s : State} (h : Inv s) (p : Nat) {f : Cpu → Cpu}
    (hf : ∀ u, CpuInv s.cfg u → CpuInv s.cfg (f u)) : Inv (s.modifyCpu p f) :=
  { h with
    ncpu := (s.length_modifyCpu p f).trans h.ncpu
    cpus := by
      rw [List.forall_mem_iff_forall_getElem]
      intro i hi
      have hmem : CpuInv s.cfg (s.cpus[i]'(by simpa using hi)) := h.cpus _ (List.getElem_mem _)
      simp only [State.modifyCpu_cpus, List.getElem_modify]
      split
      · exact hf _ hmem
      · exact hmem }

theorem Inv.modifyPort {s : State} (h : Inv s) {f : Port → Port} (hf : ∀ q, (f q).stat = q.stat) :
    Inv (s.modifyPort f) :=
  h.modifyCpu _ fun _ hu => hu.withPort (hf _)

theorem Inv.finish {s : State} (h : Inv s) (f : CmdFlags) : Inv (s.finish f) :=
  h.modifyCpu _ fun _ hu => hu.withStat s.clock f

theorem Inv.complete {s : State} (h : Inv s) : Inv s.complete := h.finish _
theorem Inv.raiseDenied {s : State} (h : Inv s) : Inv s.raiseDenied := h.finish _
theorem Inv.raiseIllegal {s : State} (h : Inv s) : Inv s.raiseIllegal := h.finish _

/-! ### Every command -/

theorem FxEffect.inv {s t : State} (h : FxEffect s t) (hs : Inv s) : Inv t := by
  cases h with
  | wroteT r v h =>
    have hwrote : Inv (s.writeT r v) := { hs with }
    exact h ▸ hwrote.complete
  | wroteResults f hstat h => exact h ▸ (hs.modifyPort hstat).complete
  | illegal h => exact h ▸ hs.raiseIllegal

theorem Inv.execAdjt {s t : State} (hs : Inv s) (h : exec .adjt s = .next t) : Inv t := by
  rcases exec_adjt_cases h with rfl | rfl
  · exact hs.raiseDenied
  · have hwritten : Inv { s with
        clock := adjustClock s.cfg s.port.req s.clock
        pps := adjustPps s.port.req s.clock s.pps } :=
      { hs with
        clock := hs.clock.adjustClock _
        pps := hs.pps.adjustPps _ _ }
    exact Inv.complete (hwritten.modifyPort fun _ => rfl)

theorem Inv.execGett {s t : State} (hs : Inv s) (h : exec .gett s = .next t) : Inv t := by
  cases h
  exact Inv.complete (hs.modifyPort fun _ => rfl)

theorem Inv.execTick {s t : State} (hs : Inv s) (h : exec .tick s = .next t) : Inv t := by
  cases h
  obtain ⟨_, _, hcw, hhz, hhz', _⟩ := hs.cfg
  have hticked : Inv { s with
      mcnt := sampleCyc s.cfg s.issue.cyc
      clock := tickAdjust s.cfg s.clock s.port.arg0.toInt } :=
    { hs with
      mcnt := sampleCyc_lt _ _ hcw
      clock := hs.clock.tickAdjust hhz hhz' _ }
  exact hticked.complete

theorem Inv.execSecovf {s t : State} (hs : Inv s) (h : exec .secovf s = .next t) : Inv t := by
  cases h
  have hrolled : Inv { s with
      pps := countDown s.pps
      clock := expireSignal (secondClock s.cfg s.clock s.pps) (countDown s.pps) } :=
    { hs with
      pps := hs.pps.countDown
      clock := (hs.clock.secondClock hs.cfg hs.pps).expireSignal _ }
  exact hrolled.complete

theorem Inv.execSett {s t : State} (hs : Inv s) (h : exec .sett s = .next t) : Inv t := by
  rcases exec_sett_cases h with rfl | rfl
  · exact hs.raiseDenied
  · exact Inv.complete { hs with clock := { hs.clock with } }

theorem Inv.execHupd {s t : State} (hs : Inv s) (h : exec .hupd s = .next t) : Inv t := by
  cases h
  exact Inv.complete { hs with clock := hs.clock.hardUpdate _ }

theorem Inv.execHpps {s t : State} (hs : Inv s) (h : exec .hpps s = .next t) : Inv t := by
  cases (exec_hpps s).symm.trans h
  obtain ⟨hclock, hpps⟩ := filterInv_hppsFilter ⟨hs.clock, hs.pps⟩
  exact Inv.complete { hs with clock := hclock, pps := hpps }

theorem Inv.execCalib {s t : State} (hs : Inv s) (h : exec .calib s = .next t) : Inv t := by
  cases h
  obtain ⟨_, _, hcw, _⟩ := hs.cfg
  have hcalibrated : Inv (s.modifyInterp fun u => calibrate s.cfg s.clock u (sampleCyc s.cfg s.issue.cyc)) :=
    hs.modifyCpu _ fun _ hu => hu.calibrate hs.cfg s.clock (sampleCyc_lt _ _ hcw)
  exact hcalibrated.complete

/-- The nanoseconds NOW returns are a remainder by one second (45_interpolator.md R356). -/
theorem Inv.execNow {s t : State} (hs : Inv s) (h : exec .now s = .next t) : Inv t := by
  cases h
  have hnsec := nowNsec_toInt (nowOut (nowCandidate s) (nowLast s))
  have hlast : Inv { s with
      lastSec := wrap64 (nowOut (nowCandidate s) (nowLast s) / nanosecond)
      lastNsec := wrap32 (nowOut (nowCandidate s) (nowLast s) % nanosecond) } :=
    { hs with lastNsec := by dsimp only; omega }
  refine (hlast.modifyPort ?_).finish _
  exact fun _ => rfl

theorem Inv.exec {s t : State} (hs : Inv s) {i : Instr} (h : exec i s = .next t) : Inv t := by
  cases hfx : isFx i with
  | true => exact (fxEffect_of_exec hfx h).inv hs
  | false =>
    cases i with
    | adjt => exact hs.execAdjt h
    | gett => exact hs.execGett h
    | tick => exact hs.execTick h
    | secovf => exact hs.execSecovf h
    | sett => exact hs.execSett h
    | hupd => exact hs.execHupd h
    | hpps => exact hs.execHpps h
    | calib => exact hs.execCalib h
    | now => exact hs.execNow h
    | _ => cases hfx

theorem Inv.runWord {s t : State} (hs : Inv s) {w : Word} (h : runWord w s = .next t) : Inv t := by
  unfold Machine.runWord at h
  split at h
  · exact hs.exec h
  · cases h
    exact hs.raiseIllegal

/-! ### Every access of the port -/

/-- All that an access of the port can do, if it answers a next state: read a word, run the word written to CMD, or write
another word (20_memory.md R93, R94). -/
inductive AccessEffect (s : State) (a : Access) (t : State) : Prop where
  | read (h : t = { s with reads := ⟨a.addr, portRead s a.addr⟩ :: s.reads })
  | command (w : Word) (hkind : a.kind = .write w) (h : runWord w (s.withIssue a) = .next t)
  | wrote (v : Word) (hkind : a.kind = .write v) (h : t = portWrite s a.addr v)

theorem accessEffect_of_presentAccess {s t : State} {a : Access} (h : (presentAccess s a).outcome = .next t) :
    AccessEffect s a t := by
  unfold presentAccess at h
  split at h
  case isTrue => cases h
  case isFalse =>
    split at h
    case isTrue => cases h
    case isFalse =>
      split at h
      case h_1 =>
        cases h
        exact .read rfl
      case h_2 v hkind =>
        split at h
        case isTrue => exact .command v hkind h
        case isFalse =>
          cases h
          exact .wrote v hkind rfl

/-- A step with an access pending performs it; with none it keeps the state. -/
theorem step_cases {s t : State} (h : step s = .next t) :
    t = s ∨ ∃ a rest, s.pending = a :: rest ∧ AccessEffect { s with pending := rest } a t := by
  cases hp : s.pending with
  | nil =>
    rw [step_of_nil s hp] at h
    cases h
    exact .inl rfl
  | cons a rest =>
    rw [step_of_cons s a rest hp] at h
    exact .inr ⟨a, rest, rfl, accessEffect_of_presentAccess h⟩

/-- STAT is read-only at the port (20_memory.md R94). -/
theorem Port.write_stat (q : Port) (v : Word) (r : PortReg) : (q.write v r).stat = q.stat := by
  cases r <;> rfl

theorem Inv.portWrite {s : State} (hs : Inv s) (addr : Nat) (v : Word) : Inv (portWrite s addr v) := by
  unfold Machine.portWrite
  split
  · exact hs.modifyCpu _ fun u hu => hu.withPort (Port.write_stat u.port v _)
  · exact hs

theorem AccessEffect.inv {s t : State} {a : Access} (h : AccessEffect s a t) (hs : Inv s) : Inv t := by
  cases h with
  | read h => exact h ▸ { hs with }
  | command w _ h =>
    have hissued : Inv (s.withIssue a) := { hs with }
    exact hissued.runWord h
  | wrote v _ h => exact h ▸ hs.portWrite a.addr v

/-- Settles O56: an access finds the state with the invariant but for the schedule, which is not in it, and what the access
does keeps each part. -/
theorem stepKeepsInvariant : Obligations.StepKeepsInvariant := by
  intro s t hs h
  rcases step_cases h with rfl | ⟨a, rest, _, heffect⟩
  · exact hs
  · exact heffect.inv { hs with }

end Sys2Proof.Machine
end

section
/-! PROOFS. The port as memory (20_memory.md): an access of one bank leaves every other bank alone (R91, R129, R436),
which accesses the port takes (R90, R98), and what a read, a write of CMD and a write of another word do (R93, R94). -/

namespace Sys2Proof.Machine

/-! ### What leaves the other banks alone -/

/-- From s to t the parameters and the schedule are kept, and so is every processor but p, whole. -/
structure OtherBanksKept (p : Nat) (s t : State) : Prop where
  cfg : t.cfg = s.cfg
  pending : t.pending = s.pending
  banks : ∀ q, q ≠ p → t.cpus[q]? = s.cpus[q]?

/-- A change of shared state, of the issue or of the observations. -/
theorem OtherBanksKept.of_cpus {p : Nat} {s t : State} (hcfg : t.cfg = s.cfg) (hpending : t.pending = s.pending)
    (hcpus : t.cpus = s.cpus) : OtherBanksKept p s t :=
  ⟨hcfg, hpending, fun _ _ => by rw [hcpus]⟩

theorem OtherBanksKept.refl (p : Nat) (s : State) : OtherBanksKept p s s := .of_cpus rfl rfl rfl

theorem OtherBanksKept.modifyCpu {p : Nat} {s t : State} {f : Cpu → Cpu} (h : OtherBanksKept p s t) :
    OtherBanksKept p s (t.modifyCpu p f) where
  cfg := h.cfg
  pending := h.pending
  banks q hq := by
    have hmodify : (t.cpus.modify p f)[q]? = t.cpus[q]? := by
      simp [hq.symm]
    exact hmodify.trans (h.banks q hq)

theorem OtherBanksKept.modifyPort {p : Nat} {s t : State} {f : Port → Port} (h : OtherBanksKept p s t)
    (hissue : t.issue.bank = p) : OtherBanksKept p s (t.modifyPort f) := by
  subst hissue
  exact h.modifyCpu

/-- The STAT write that ends a command goes to the issuing bank (30_encoding.md R129). -/
theorem OtherBanksKept.finish {p : Nat} {s t : State} {f : CmdFlags} (h : OtherBanksKept p s t)
    (hissue : t.issue.bank = p) : OtherBanksKept p s (t.finish f) :=
  h.modifyPort hissue

/-! ### Every command and every access leaves the other banks alone -/

theorem FxEffect.otherBanksKept {s t : State} (h : FxEffect s t) : OtherBanksKept s.issue.bank s t := by
  cases h with
  | wroteT r v h => subst h; exact .finish (.of_cpus rfl rfl rfl) rfl
  | wroteResults f _ h => subst h; exact .finish (.modifyPort (.refl _ s) rfl) rfl
  | illegal h => subst h; exact .finish (.refl _ s) rfl

/-- Of the discipline ADJT, GETT and NOW write words of the issuing bank, CALIB its interpolation state; the others
write shared state alone. -/
theorem otherBanksKept_of_exec {i : Instr} {s t : State} (h : exec i s = .next t) :
    OtherBanksKept s.issue.bank s t := by
  cases hfx : isFx i with
  | true => exact (fxEffect_of_exec hfx h).otherBanksKept
  | false =>
    cases i with
    | adjt =>
      rcases exec_adjt_cases h with rfl | rfl
      · exact .finish (.refl _ s) rfl
      · exact .finish (.modifyPort (.of_cpus rfl rfl rfl) rfl) rfl
    | gett => cases h; exact .finish (.modifyPort (.refl _ s) rfl) rfl
    | tick => cases h; exact .finish (.of_cpus rfl rfl rfl) rfl
    | secovf => cases h; exact .finish (.of_cpus rfl rfl rfl) rfl
    | sett =>
      rcases exec_sett_cases h with rfl | rfl
      · exact .finish (.refl _ s) rfl
      · exact .finish (.of_cpus rfl rfl rfl) rfl
    | hupd => cases h; exact .finish (.of_cpus rfl rfl rfl) rfl
    | hpps => cases h; exact .finish (.of_cpus rfl rfl rfl) rfl
    | calib => cases h; exact .finish (.modifyCpu (.refl _ s)) rfl
    | now => cases h; exact .finish (.modifyPort (.of_cpus rfl rfl rfl) rfl) rfl
    | _ => cases hfx

theorem otherBanksKept_of_runWord {w : Word} {s t : State} (h : runWord w s = .next t) :
    OtherBanksKept s.issue.bank s t := by
  unfold runWord at h
  split at h
  · exact otherBanksKept_of_exec h
  · cases h
    exact .finish (.refl _ s) rfl

theorem otherBanksKept_portWrite (s : State) (addr : Nat) (v : Word) :
    OtherBanksKept (bankOf addr) s (portWrite s addr v) := by
  unfold portWrite
  split
  · exact .modifyCpu (.refl _ s)
  · exact .refl _ s

/-- A command is issued by the bank of its access, and presenting it changes no bank. -/
theorem AccessEffect.otherBanksKept {s t : State} {a : Access} (h : AccessEffect s a t) :
    OtherBanksKept (bankOf a.addr) s t := by
  cases h with
  | read h => exact h ▸ .of_cpus rfl rfl rfl
  | command w _ h =>
    obtain ⟨hcfg, hpending, hbanks⟩ := otherBanksKept_of_runWord h
    exact ⟨hcfg, hpending, hbanks⟩
  | wrote v _ h => exact h ▸ otherBanksKept_portWrite s a.addr v

/-- Settles O59: with no access pending the step keeps the state, else the access it takes keeps every
bank but its own. -/
theorem banksAreIsolated : Obligations.BanksAreIsolated := by
  intro s t h
  cases hpending : s.pending with
  | nil =>
    rw [step_of_nil s hpending] at h
    cases h
    exact ⟨rfl, nofun⟩
  | cons a rest =>
    rw [step_of_cons s a rest hpending] at h
    have hkept := (accessEffect_of_presentAccess h).otherBanksKept
    refine ⟨hkept.cfg, fun a' rest' hcons => ?_⟩
    cases hcons
    exact ⟨hkept.pending, hkept.banks⟩

/-! ### Which accesses the port takes -/

theorem presentAccess_refused (s : State) (a : Access) (hshape : a.shape ≠ .word) :
    presentAccess s a = .refused .notOneAlignedWord :=
  if_pos hshape

theorem presentAccess_fault (s : State) (a : Access) (hshape : a.shape = .word) (hout : 128 * s.cfg.ncpu ≤ a.addr) :
    presentAccess s a = .fault (.outsidePortSpace a.addr) := by
  have hspace : ¬inPortSpace s a.addr = true := fun h => Nat.not_lt.2 hout ((inPortSpace_iff s a.addr).1 h)
  simp [presentAccess, hshape, hspace]

/-- Settles O10: the two stops of the port, by the shape and by the index. -/
theorem accessesOutsideThePort : Obligations.AccessesOutsideThePort := by
  intro s a rest hpending
  rw [step_of_cons s a rest hpending]
  constructor
  · intro hshape
    rw [presentAccess_refused { s with pending := rest } a hshape, Presented.outcome]
  · intro hshape hout
    rw [presentAccess_fault { s with pending := rest } a hshape hout, Presented.outcome]

/-! ### A write of CMD -/

theorem runWord_command {w : Word} {i : Instr} (h : decode w = .command i) (s : State) : runWord w s = exec i s := by
  rw [runWord, h]

/-- Settles O6: CMD is the word at offset 0, and its write runs the word in the state that presents the access. -/
theorem stepRunsDecodedCommand : Obligations.StepRunsDecodedCommand := by
  intro s a rest w i hpending hshape hin hoffset hkind hdecode
  have hcmd : regAt (offsetOf a.addr) = some .cmd := (regAt_eq_cmd _).2 hoffset
  rw [step_of_cons s a rest hpending, presentAccess_cmd { s with pending := rest } a w hshape hin hkind hcmd,
    Presented.outcome, runWord_command hdecode]
  rfl

/-! ### Reads -/

theorem portRead_of_regAt (s : State) {addr : Nat} {r : PortReg} (h : regAt (offsetOf addr) = some r) :
    portRead s addr = (s.cpu (bankOf addr)).port.read r := by
  rw [portRead, h]

theorem portRead_of_reserved (s : State) {addr : Nat} (h : regAt (offsetOf addr) = none) : portRead s addr = 0#32 := by
  rw [portRead, h]

/-- Settles O8: the value recorded is that of `portRead`, which the tables of R92 name word by word. -/
theorem portReadReturnsRegister : Obligations.PortReadReturnsRegister := by
  intro s a rest hpending hshape hin hkind
  refine ⟨portRead s a.addr, ?_, ?_, ?_⟩
  · rw [step_of_cons s a rest hpending, presentAccess_read { s with pending := rest } a hshape hin hkind]
    rfl
  · intro word hword hoffset
    obtain ⟨r, hreg, hvalue⟩ := readableWords_spec _ word hword
    rw [← hoffset] at hreg
    exact (portRead_of_regAt s hreg).trans hvalue
  · rintro (hcmd | hreserved)
    · exact portRead_of_regAt s ((regAt_eq_cmd _).2 hcmd)
    · exact portRead_of_reserved s (regAt_reserved _ hreserved)

/-! ### Writes of a word that is not CMD -/

theorem portWrite_of_regAt (s : State) {addr : Nat} (v : Word) {r : PortReg} (h : regAt (offsetOf addr) = some r) :
    portWrite s addr v = s.modifyCpu (bankOf addr) fun u => { u with port := u.port.write v r } := by
  rw [portWrite, h]

theorem portWrite_of_reserved (s : State) {addr : Nat} (v : Word) (h : regAt (offsetOf addr) = none) :
    portWrite s addr v = s := by
  rw [portWrite, h]

theorem bankOf_lt {addr n : Nat} (h : addr < 128 * n) : bankOf addr < n := Nat.div_lt_of_lt_mul h

theorem bankOf_offsetOf_inj {x y : Nat} (hbank : bankOf x = bankOf y) (hoffset : offsetOf x = offsetOf y) : x = y := by
  simp only [bankOf, offsetOf, bankWords] at hbank hoffset
  omega

/-- No offset of the ARG and REQ ranges is reserved (20_memory.md R92). -/
theorem regAt_stored {o : Nat} (h : isStored o) : ∃ r, regAt o = some r := by
  have hnamed : ∀ o < 0x1A, (2 ≤ o ∧ o ≤ 5 ∨ 0x10 ≤ o) → (regAt o).isSome = true := by decide
  unfold isStored at h
  exact Option.isSome_iff_exists.1 (hnamed o (by omega) (by omega))

/-- The write of one register changes no other. -/
theorem Port.read_write_ne (q : Port) (v : Word) {r r' : PortReg} {o : Nat} (hreg : regAt o = some r) (h : r' ≠ r) :
    (q.write v r).read r' = q.read r' := by
  rcases Port.write_spec o r v hreg with ⟨_, hstored⟩ | ⟨_, hignored⟩
  · exact (hstored q).2 r' h
  · rw [hignored q]

theorem Port.read_write_same (q : Port) (v : Word) {r : PortReg} {o : Nat} (hreg : regAt o = some r)
    (h : isStored o) : (q.write v r).read r = v := by
  rcases Port.write_spec o r v hreg with ⟨_, hstored⟩ | ⟨hnot, _⟩
  · exact (hstored q).1
  · exact absurd h hnot

/-- A write of a word changes the list of processors and nothing else. -/
theorem portWrite_eq (s : State) (addr : Nat) (v : Word) :
    portWrite s addr v = { s with cpus := (portWrite s addr v).cpus } := by
  unfold portWrite
  split <;> rfl

theorem length_portWrite (s : State) (addr : Nat) (v : Word) : (portWrite s addr v).cpus.length = s.cpus.length := by
  unfold portWrite
  split
  · exact s.length_modifyCpu _ _
  · rfl

theorem interp_portWrite (s : State) (addr : Nat) (v : Word) (p : Nat) :
    ((portWrite s addr v).cpu p).interp = (s.cpu p).interp := by
  unfold portWrite
  split
  · exact s.cpu_modifyCpu_proj Cpu.interp _ p _ fun _ => rfl
  · rfl

theorem port_portWrite (s : State) {addr : Nat} (v : Word) {r : PortReg} (h : regAt (offsetOf addr) = some r)
    (hbank : bankOf addr < s.cpus.length) :
    ((portWrite s addr v).cpu (bankOf addr)).port = (s.cpu (bankOf addr)).port.write v r := by
  rw [portWrite_of_regAt s v h, s.cpu_modifyCpu_same _ _ hbank]

/-- A write of a word that stores nothing keeps the whole state (20_memory.md R94). -/
theorem portWrite_of_not_stored (s : State) {addr : Nat} (v : Word) (h : ¬isStored (offsetOf addr)) :
    portWrite s addr v = s := by
  cases hreg : regAt (offsetOf addr) with
  | none => exact portWrite_of_reserved s v hreg
  | some r =>
    rcases Port.write_spec _ r v hreg with ⟨hstored, _⟩ | ⟨_, hignored⟩
    · exact absurd hstored h
    · have hsame : (fun u : Cpu => { u with port := u.port.write v r }) = id := funext fun u => by
        rw [hignored]
        rfl
      rw [portWrite_of_regAt s v hreg, hsame, State.modifyCpu, List.modify_id]

/-- Another word is one of another bank, which is kept whole, or another register of the same. -/
theorem portRead_portWrite_ne (s : State) {addr addr' : Nat} (v : Word) (h : addr' ≠ addr) :
    portRead (portWrite s addr v) addr' = portRead s addr' := by
  cases hreg : regAt (offsetOf addr) with
  | none => rw [portWrite_of_reserved s v hreg]
  | some r =>
    rw [portWrite_of_regAt s v hreg]
    cases hreg' : regAt (offsetOf addr') with
    | none => rw [portRead_of_reserved _ hreg', portRead_of_reserved _ hreg']
    | some r' =>
      rw [portRead_of_regAt _ hreg', portRead_of_regAt _ hreg']
      by_cases hbank : bankOf addr' = bankOf addr
      · have hne : r' ≠ r := fun heq =>
          h (bankOf_offsetOf_inj hbank (regAt_inj _ _ r (heq ▸ hreg') hreg))
        exact s.cpu_modifyCpu_proj (fun u => u.port.read r') _ _ _ fun u => u.port.read_write_ne v hreg hne
      · rw [s.cpu_modifyCpu_ne _ _ _ hbank]

theorem portRead_portWrite_same (s : State) {addr : Nat} (v : Word) (h : isStored (offsetOf addr))
    (hbank : bankOf addr < s.cpus.length) : portRead (portWrite s addr v) addr = v := by
  obtain ⟨r, hreg⟩ := regAt_stored h
  rw [portRead_of_regAt _ hreg, port_portWrite s v hreg hbank, Port.read_write_same _ v hreg h]

/-- Settles O9: the state left is that of `portWrite`, clause by clause. -/
theorem portWriteStoresOrIsIgnored : Obligations.PortWriteStoresOrIsIgnored := by
  intro s a rest v hpending hshape hin hbanks hkind hoffset
  have hbank : bankOf a.addr < s.cpus.length := hbanks ▸ bankOf_lt hin
  have hcmd : regAt (offsetOf a.addr) ≠ some .cmd := fun h => hoffset ((regAt_eq_cmd _).1 h)
  refine ⟨portWrite { s with pending := rest } a.addr v, ?_, ?_, portWrite_eq _ _ _, length_portWrite _ _ _,
    interp_portWrite _ _ _, ?_, ?_, ?_⟩
  · rw [step_of_cons s a rest hpending, presentAccess_write { s with pending := rest } a v hshape hin hkind hcmd,
      Presented.outcome]
  · exact fun addr hne => portRead_portWrite_ne { s with pending := rest } v hne
  · exact fun hstored => portRead_portWrite_same { s with pending := rest } v hstored hbank
  · intro word hword hat
    obtain ⟨r, hreg, hwrite⟩ := writableWords_spec v word hword
    rw [← hat] at hreg
    exact (port_portWrite { s with pending := rest } v hreg hbank).trans (hwrite _).symm
  · intro hnot
    rw [portWrite_of_not_stored _ v hnot]

end Sys2Proof.Machine
end

section
/-! PROOFS. The encoding (30_encoding.md R121, R122, R125, R127): decode and encode are inverse to each other on the
well-formed commands, the legal words are those of the rows of the opcode table, and every other encoding is illegal. -/

namespace Sys2Proof

/-! ### Decoding a word laid out from its fields -/

theorem formatRR_pack (op : BitVec 8) (rd rs : BitVec 4) (mk : BitVec 4 → BitVec 4 → Instr) :
    formatRR (packFields op rd rs 0#6) mk = formatted (regLegal rd && regLegal rs) true (mk rd rs) := by
  rw [formatRR, fieldRd_pack, fieldRs_pack, fieldZ_pack, fieldSh_pack]
  rfl

theorem formatR_pack (op : BitVec 8) (rd : BitVec 4) (mk : BitVec 4 → Instr) :
    formatR (packFields op rd 0#4 0#6) mk = formatted (regLegal rd) true (mk rd) := by
  rw [formatR, fieldRd_pack, fieldRs_pack, fieldZ_pack, fieldSh_pack]
  rfl

theorem formatS_pack (op : BitVec 8) (rs : BitVec 4) (mk : BitVec 4 → Instr) :
    formatS (packFields op 0#4 rs 0#6) mk = formatted (regLegal rs) true (mk rs) := by
  rw [formatS, fieldRd_pack, fieldRs_pack, fieldZ_pack, fieldSh_pack]
  rfl

theorem formatRI_pack (op : BitVec 8) (rd : BitVec 4) (sh : BitVec 6) (mk : BitVec 4 → BitVec 6 → Instr) :
    formatRI (packFields op rd 0#4 sh) mk = formatted (regLegal rd) true (mk rd sh) := by
  rw [formatRI, fieldRd_pack, fieldRs_pack, fieldZ_pack, fieldSh_pack]
  rfl

/-- The decoder finds the fields of an encoding where the encoder put them, so nothing but a register number decides. -/
theorem decode_encode (i : Instr) : decode (encode i) = formatted i.WellFormed true i := by
  cases i with
  | fxadd rd rs | fxsub rd rs =>
    rw [encode, decode, fieldOp_pack]
    exact formatRR_pack _ rd rs _
  | fxneg rd | fxmul rd | fxlint rd | fxclr rd | fxld rd =>
    rw [encode, decode, fieldOp_pack]
    exact formatR_pack _ rd _
  | fxgint rs | fxst rs =>
    rw [encode, decode, fieldOp_pack]
    exact formatS_pack _ rs _
  | fxrsh rd sh =>
    rw [encode, decode, fieldOp_pack]
    exact formatRI_pack _ rd sh _
  | adjt | gett | tick | secovf | sett | hupd | hpps | calib | now => rfl

/-- Settles O1: the register fields of a legal command are in range, which is all the decoder asks of an encoding. -/
theorem decodeOfEncode : Obligations.DecodeOfEncode := fun i hwf => by
  rw [decode_encode, hwf]
  rfl

/-! ### Commands with a register field out of range -/

/-- An FX command checks its register fields, then ends as a completed or an illegal command (log 12). -/
theorem exec_fx_eq {i : Instr} (hfx : Machine.isFx i = true) (s : Machine.State) :
    ∃ u : Machine.State, Machine.exec i s = .next (s.completeIf i.WellFormed u) ∧ u.issue = s.issue ∧
      u.cpus.length = s.cpus.length := by
  cases i with
  | fxadd rd rs | fxsub rd rs | fxneg rd | fxrsh rd sh | fxmul rd | fxlint rd | fxclr rd | fxld rd =>
    exact ⟨_, rfl, rfl, rfl⟩
  | fxgint rs | fxst rs => exact ⟨_, rfl, rfl, Machine.State.length_modifyCpu ..⟩
  | _ => cases hfx

theorem isFx_of_not_wellFormed {i : Instr} (h : i.WellFormed = false) : Machine.isFx i = true := by
  cases i with
  | adjt | gett | tick | secovf | sett | hupd | hpps | calib | now => cases h
  | _ => rfl

/-- Settles O5: only FX commands have register fields; their encoding is out of range in the decoder and their meaning
checks the same fields. -/
theorem illFormedCommandsAreIllegal : Obligations.IllFormedCommandsAreIllegal := by
  intro i s hwf
  constructor
  · rw [decode_encode, hwf]
    exact ⟨.registerOutOfRange, rfl⟩
  · obtain ⟨u, hexec, -⟩ := exec_fx_eq (isFx_of_not_wellFormed hwf) s
    rw [hexec, hwf, Machine.State.completeIf_false]

/-! ### The word of a decoded command

Several operation codes share a format; what `encode` and `WellFormed` say of such a command enters as a hypothesis,
which holds by definition. -/

section
variable {w : Word} {op : BitVec 8} {j : Instr}

theorem pack_of_fields {rd rs : BitVec 4} {sh : BitVec 6} (hop : fieldOp w = op) (hrd : fieldRd w = rd)
    (hrs : fieldRs w = rs) (hz : fieldZ w = 0#10) (hsh : fieldSh w = sh) : packFields op rd rs sh = w := by
  subst hop hrd hrs hsh
  exact pack_fields w hz

theorem encode_of_formatRR {mk : BitVec 4 → BitVec 4 → Instr} (hop : fieldOp w = op)
    (hwf : ∀ rd rs, (mk rd rs).WellFormed = (regLegal rd && regLegal rs))
    (henc : ∀ rd rs, encode (mk rd rs) = packFields op rd rs 0#6) (h : formatRR w mk = .command j) :
    j.WellFormed = true ∧ encode j = w := by
  obtain ⟨hregs, hzero, rfl⟩ := formatted_eq h
  simp only [Bool.and_eq_true (fieldZ w == 0#10), beq_iff_eq] at hzero
  obtain ⟨hz, hsh⟩ := hzero
  exact ⟨(hwf _ _).trans hregs, (henc _ _).trans (pack_of_fields hop rfl rfl hz hsh)⟩

theorem encode_of_formatR {mk : BitVec 4 → Instr} (hop : fieldOp w = op)
    (hwf : ∀ rd, (mk rd).WellFormed = regLegal rd) (henc : ∀ rd, encode (mk rd) = packFields op rd 0#4 0#6)
    (h : formatR w mk = .command j) : j.WellFormed = true ∧ encode j = w := by
  obtain ⟨hregs, hzero, rfl⟩ := formatted_eq h
  simp only [Bool.and_eq_true, beq_iff_eq] at hzero
  obtain ⟨⟨hrs, hz⟩, hsh⟩ := hzero
  exact ⟨(hwf _).trans hregs, (henc _).trans (pack_of_fields hop rfl hrs hz hsh)⟩

theorem encode_of_formatS {mk : BitVec 4 → Instr} (hop : fieldOp w = op)
    (hwf : ∀ rs, (mk rs).WellFormed = regLegal rs) (henc : ∀ rs, encode (mk rs) = packFields op 0#4 rs 0#6)
    (h : formatS w mk = .command j) : j.WellFormed = true ∧ encode j = w := by
  obtain ⟨hregs, hzero, rfl⟩ := formatted_eq h
  simp only [Bool.and_eq_true, beq_iff_eq] at hzero
  obtain ⟨⟨hrd, hz⟩, hsh⟩ := hzero
  exact ⟨(hwf _).trans hregs, (henc _).trans (pack_of_fields hop hrd rfl hz hsh)⟩

theorem encode_of_formatRI {mk : BitVec 4 → BitVec 6 → Instr} (hop : fieldOp w = op)
    (hwf : ∀ rd sh, (mk rd sh).WellFormed = regLegal rd) (henc : ∀ rd sh, encode (mk rd sh) = packFields op rd 0#4 sh)
    (h : formatRI w mk = .command j) : j.WellFormed = true ∧ encode j = w := by
  obtain ⟨hregs, hzero, rfl⟩ := formatted_eq h
  simp only [Bool.and_eq_true, beq_iff_eq] at hzero
  obtain ⟨hrs, hz⟩ := hzero
  exact ⟨(hwf _ _).trans hregs, (henc _ _).trans (pack_of_fields hop rfl hrs hz rfl)⟩

theorem encode_of_format0 {i : Instr} (hop : fieldOp w = op) (hwf : i.WellFormed = true)
    (henc : encode i = packFields op 0#4 0#4 0#6) (h : format0 w i = .command j) :
    j.WellFormed = true ∧ encode j = w := by
  obtain ⟨-, hzero, rfl⟩ := formatted_eq h
  simp only [Bool.and_eq_true, beq_iff_eq] at hzero
  obtain ⟨⟨⟨hrd, hrs⟩, hz⟩, hsh⟩ := hzero
  exact ⟨hwf, henc.trans (pack_of_fields hop hrd hrs hz hsh)⟩

end

/-- Settles O2: the format of the operation code gives back every field the encoder writes, and the fields it does not
use are 0 in the word. The arms of the opcode map are grouped by format, in the order of R122. -/
theorem encodeOfDecode : Obligations.EncodeOfDecode := by
  intro w i h
  unfold decode at h
  split at h
  case h_1 hop | h_2 hop => exact encode_of_formatRR hop (fun _ _ => rfl) (fun _ _ => rfl) h
  case h_3 hop | h_5 hop | h_6 hop | h_8 hop | h_9 hop =>
    exact encode_of_formatR hop (fun _ => rfl) (fun _ => rfl) h
  case h_7 hop | h_10 hop => exact encode_of_formatS hop (fun _ => rfl) (fun _ => rfl) h
  case h_4 hop => exact encode_of_formatRI hop (fun _ _ => rfl) (fun _ _ => rfl) h
  case h_20 => cases h
  all_goals rename_i hop; exact encode_of_format0 hop rfl rfl h

/-! ### The rows of the opcode table

Each mask of R122 covers OP and Z whole, so a word of a row carries the row's operation code, and no two rows have the
same one. -/

theorem word_eq_of_fields {v w : Word} (hop : fieldOp v = fieldOp w) (hrd : fieldRd v = fieldRd w)
    (hrs : fieldRs v = fieldRs w) (hz : fieldZ v = fieldZ w) (hsh : fieldSh v = fieldSh w) : v = w := by
  simp only [fieldOp, fieldRd, fieldRs, fieldZ, fieldSh, ← BitVec.toNat_inj, BitVec.extractLsb'_toNat,
    Nat.shiftRight_eq_div_pow] at hop hrd hrs hz hsh ⊢
  omega

/-- The test of R122 for a row, field by field. -/
theorem and_mask_iff (w : Word) {m : Word} (hop : fieldOp m = BitVec.allOnes 8) (hz : fieldZ m = BitVec.allOnes 10) :
    w &&& m = packFields (fieldOp w) 0#4 0#4 0#6 ↔
      fieldRd w &&& fieldRd m = 0#4 ∧ fieldRs w &&& fieldRs m = 0#4 ∧ fieldZ w = 0#10 ∧
        fieldSh w &&& fieldSh m = 0#6 := by
  have hopw : fieldOp (w &&& m) = fieldOp w := by
    rw [fieldOp, BitVec.extractLsb'_and, ← fieldOp, ← fieldOp, hop, BitVec.and_allOnes]
  have hrdw : fieldRd (w &&& m) = fieldRd w &&& fieldRd m := BitVec.extractLsb'_and
  have hrsw : fieldRs (w &&& m) = fieldRs w &&& fieldRs m := BitVec.extractLsb'_and
  have hzw : fieldZ (w &&& m) = fieldZ w := by
    rw [fieldZ, BitVec.extractLsb'_and, ← fieldZ, ← fieldZ, hz, BitVec.and_allOnes]
  have hshw : fieldSh (w &&& m) = fieldSh w &&& fieldSh m := BitVec.extractLsb'_and
  constructor
  · intro h
    rw [← hrdw, ← hrsw, ← hzw, ← hshw, h]
    exact ⟨fieldRd_pack .., fieldRs_pack .., fieldZ_pack .., fieldSh_pack ..⟩
  · rintro ⟨hrd, hrs, hz, hsh⟩
    exact (pack_of_fields hopw (hrdw.trans hrd) (hrsw.trans hrs) (hzw.trans hz) (hshw.trans hsh)).symm

/-- The mask of a used register field is its top bit. -/
theorem regLegal_iff_and (r : BitVec 4) : regLegal r = true ↔ r &&& 8#4 = 0#4 := by
  revert r
  decide

theorem exists_formatted_iff {legal zero : Bool} {i : Instr} :
    (∃ j, formatted legal zero i = .command j) ↔ legal = true ∧ zero = true := by
  cases legal <;> cases zero <;> simp [formatted]

section
variable (w : Word)

theorem formatRR_legal_iff (mk : BitVec 4 → BitVec 4 → Instr) :
    (∃ i, formatRR w mk = .command i) ↔ w &&& maskRR = packFields (fieldOp w) 0#4 0#4 0#6 := by
  have hsh : fieldSh maskRR = BitVec.allOnes 6 := rfl
  rw [formatRR, exists_formatted_iff, and_mask_iff w rfl rfl, hsh, BitVec.and_allOnes]
  simp only [Bool.and_eq_true, beq_iff_eq, regLegal_iff_and]
  exact and_assoc

theorem formatR_legal_iff (mk : BitVec 4 → Instr) :
    (∃ i, formatR w mk = .command i) ↔ w &&& maskR = packFields (fieldOp w) 0#4 0#4 0#6 := by
  have hrs : fieldRs maskR = BitVec.allOnes 4 := rfl
  have hsh : fieldSh maskR = BitVec.allOnes 6 := rfl
  rw [formatR, exists_formatted_iff, and_mask_iff w rfl rfl, hrs, hsh, BitVec.and_allOnes, BitVec.and_allOnes]
  simp only [Bool.and_eq_true, beq_iff_eq, regLegal_iff_and, and_assoc]
  rfl

theorem formatS_legal_iff (mk : BitVec 4 → Instr) :
    (∃ i, formatS w mk = .command i) ↔ w &&& maskS = packFields (fieldOp w) 0#4 0#4 0#6 := by
  have hrd : fieldRd maskS = BitVec.allOnes 4 := rfl
  have hsh : fieldSh maskS = BitVec.allOnes 6 := rfl
  rw [formatS, exists_formatted_iff, and_mask_iff w rfl rfl, hrd, hsh, BitVec.and_allOnes, BitVec.and_allOnes]
  simp only [Bool.and_eq_true, beq_iff_eq, regLegal_iff_and, and_assoc]
  exact and_left_comm

theorem formatRI_legal_iff (mk : BitVec 4 → BitVec 6 → Instr) :
    (∃ i, formatRI w mk = .command i) ↔ w &&& maskRI = packFields (fieldOp w) 0#4 0#4 0#6 := by
  have hrs : fieldRs maskRI = BitVec.allOnes 4 := rfl
  have hsh : fieldSh maskRI = 0#6 := rfl
  rw [formatRI, exists_formatted_iff, and_mask_iff w rfl rfl, hrs, hsh, BitVec.and_allOnes, BitVec.and_zero]
  simp only [Bool.and_eq_true, beq_iff_eq, regLegal_iff_and, and_true]
  rfl

theorem format0_legal_iff (i : Instr) :
    (∃ j, format0 w i = .command j) ↔ w &&& mask0 = packFields (fieldOp w) 0#4 0#4 0#6 := by
  have hrd : fieldRd mask0 = BitVec.allOnes 4 := rfl
  have hrs : fieldRs mask0 = BitVec.allOnes 4 := rfl
  have hsh : fieldSh mask0 = BitVec.allOnes 6 := rfl
  rw [format0, exists_formatted_iff, and_mask_iff w rfl rfl, hrd, hrs, hsh, BitVec.and_allOnes, BitVec.and_allOnes,
    BitVec.and_allOnes]
  simp only [Bool.and_eq_true, beq_iff_eq, and_assoc, true_and]

end

theorem fieldOp_of_row {w : Word} {row : OpcodeRow} (hrow : row ∈ opcodeTable) (h : w &&& row.mask = row.pattern) :
    fieldOp w = fieldOp row.pattern := by
  have hmask : ∀ row ∈ opcodeTable, fieldOp row.mask = BitVec.allOnes 8 := by decide
  rw [← h, fieldOp, fieldOp, BitVec.extractLsb'_and, ← fieldOp, ← fieldOp, hmask row hrow, BitVec.and_allOnes]

theorem opcodeTable_ops :
    opcodeTable.map (fun row => fieldOp row.pattern) =
      [0x01#8, 0x02#8, 0x03#8, 0x04#8, 0x05#8, 0x06#8, 0x07#8, 0x08#8, 0x09#8, 0x0A#8, 0x10#8, 0x11#8, 0x20#8, 0x21#8,
       0x22#8, 0x30#8, 0x40#8, 0x50#8, 0x51#8] := rfl

theorem opcodeTable_ops_distinct : opcodeTable.Pairwise fun a b => fieldOp a.pattern ≠ fieldOp b.pattern := by decide

theorem row_eq_of_fieldOp_eq {a b : OpcodeRow} (ha : a ∈ opcodeTable) (hb : b ∈ opcodeTable)
    (h : fieldOp a.pattern = fieldOp b.pattern) : a = b :=
  List.inj_on_of_nodup_map (List.pairwise_map.2 opcodeTable_ops_distinct) ha hb h

/-- Only the row of a word's own operation code can have that word. -/
theorem exists_row_iff {w : Word} {op : BitVec 8} {m : Word} (hop : fieldOp w = op)
    (hrow : ⟨m, packFields op 0#4 0#4 0#6⟩ ∈ opcodeTable) :
    (∃ row ∈ opcodeTable, w &&& row.mask = row.pattern) ↔ w &&& m = packFields (fieldOp w) 0#4 0#4 0#6 := by
  subst hop
  constructor
  · rintro ⟨row, hmem, h⟩
    have hsame : row = ⟨m, packFields (fieldOp w) 0#4 0#4 0#6⟩ :=
      row_eq_of_fieldOp_eq hmem hrow ((fieldOp_of_row hmem h).symm.trans (fieldOp_pack ..).symm)
    rwa [hsame] at h
  · exact fun h => ⟨_, hrow, h⟩

/-- A word is a command exactly when the row of its operation code has it. The arms of the opcode map are
grouped by format, in the order of R122; the last is that of no row. -/
theorem legal_iff_row (w : Word) :
    (∃ i, decode w = .command i) ↔ ∃ row ∈ opcodeTable, w &&& row.mask = row.pattern := by
  unfold decode
  split
  case h_1 hop | h_2 hop => exact (formatRR_legal_iff w _).trans (exists_row_iff hop (by decide)).symm
  case h_3 hop | h_5 hop | h_6 hop | h_8 hop | h_9 hop =>
    exact (formatR_legal_iff w _).trans (exists_row_iff hop (by decide)).symm
  case h_7 hop | h_10 hop => exact (formatS_legal_iff w _).trans (exists_row_iff hop (by decide)).symm
  case h_4 hop => exact (formatRI_legal_iff w _).trans (exists_row_iff hop (by decide)).symm
  case h_20 =>
    refine iff_of_false nofun ?_
    rintro ⟨row, hmem, h⟩
    have hcode : fieldOp w ∈ opcodeTable.map fun row => fieldOp row.pattern :=
      List.mem_map.2 ⟨row, hmem, (fieldOp_of_row hmem h).symm⟩
    simp only [opcodeTable_ops, List.mem_cons, List.not_mem_nil, or_false] at hcode
    tauto
  all_goals
    rename_i hop
    exact (format0_legal_iff w _).trans (exists_row_iff hop (by decide)).symm

/-- Settles O3: the legal words by the row of their operation code; two rows have different ones, and a word of both
would carry both. -/
theorem legalWordsAreTableRows : Obligations.LegalWordsAreTableRows := by
  refine ⟨legal_iff_row, opcodeTable_ops_distinct.imp_of_mem fun ha hb hne w hboth => hne ?_⟩
  obtain ⟨hw, hw'⟩ := hboth
  exact (fieldOp_of_row ha hw).symm.trans (fieldOp_of_row hb hw')

end Sys2Proof
end

section
/-! PROOFS. The STAT write that ends every command, legal or not (30_encoding.md R128, R129). -/

namespace Sys2Proof.Machine

/-! ### What STAT takes from the command -/

/-- The outcome bits a well-formed command reports: MONO from NOW (45_interpolator.md R360), DENIED from the two
privileged commands (41_control.md R192, 42_tick_second.md R252). -/
def cmdFlags (i : Instr) (s : State) : CmdFlags :=
  match i with
  | .now => { flagsNone with mono := nowHeld (nowCandidate s) (nowLast s) }
  | .adjt => { flagsNone with denied := requestWrites s.port.req && !s.issue.priv }
  | .sett => { flagsNone with denied := !s.issue.priv }
  | _ => flagsNone

theorem cmdFlags_illegal (i : Instr) (s : State) : (cmdFlags i s).illegal = false := by
  cases i <;> rfl

/-- The outcome bits of a word written to CMD (30_encoding.md R128, R129). -/
def wordFlags (w : Word) (s : State) : CmdFlags :=
  match decode w with
  | .command i => cmdFlags i s
  | .illegal _ => { flagsNone with illegal := true }

theorem wordFlags_command {w : Word} {i : Instr} (h : decode w = .command i) (s : State) :
    wordFlags w s = cmdFlags i s := by
  rw [wordFlags, h]

theorem wordFlags_illegal {w : Word} {why : Illegal} (h : decode w = .illegal why) (s : State) :
    wordFlags w s = { flagsNone with illegal := true } := by
  rw [wordFlags, h]

theorem wordFlags_mono_iff (w : Word) (s : State) :
    (wordFlags w s).mono = true ↔
      decode w = .command .now ∧ nowCandidate s ≤ nowLast s ∧ nowLast s - nowCandidate s ≤ 1000000000 := by
  cases h : decode w with
  | illegal why => simp [wordFlags_illegal h, flagsNone]
  | command i =>
    rw [wordFlags_command h]
    cases i with
    | now => simp [cmdFlags, nowHeld, nanosecond]
    | _ => simp [cmdFlags, flagsNone]

theorem wordFlags_illegal_iff (w : Word) (s : State) :
    (wordFlags w s).illegal = true ↔ ∃ why, decode w = .illegal why := by
  cases h : decode w with
  | illegal why => simp [wordFlags_illegal h]
  | command i => simp [wordFlags_command h, cmdFlags_illegal]

theorem wordFlags_denied_iff (w : Word) (s : State) :
    (wordFlags w s).denied = true ↔
      (decode w = .command .adjt ∧ s.port.req.modes.setWidth 16 ≠ 0#16 ∨ decode w = .command .sett) ∧
        s.issue.priv = false := by
  cases h : decode w with
  | illegal why => simp [wordFlags_illegal h, flagsNone]
  | command i =>
    rw [wordFlags_command h]
    cases i with
    | adjt => simp [cmdFlags, requestWrites, modesOf]
    | sett => simp [cmdFlags]
    | _ => simp [cmdFlags, flagsNone]

/-! ### Every word ends with that STAT -/

/-- The state t is left by the STAT write with the given bits, on a state with the issuing bank and the banks of s. -/
def FinishedWith (s : State) (f : CmdFlags) (t : State) : Prop :=
  ∃ u : State, t = u.finish f ∧ u.issue = s.issue ∧ u.cpus.length = s.cpus.length

theorem FinishedWith.statIs {s t : State} {f : CmdFlags} (h : FinishedWith s f t) (hs : Issued s) : StatIs t f := by
  obtain ⟨u, rfl, hissue, hbanks⟩ := h
  exact State.stat_finish u f (by rwa [Issued, hissue, hbanks])

theorem finishedWith_adjt (s : State) : ∃ t, exec .adjt s = .next t ∧ FinishedWith s (cmdFlags .adjt s) t := by
  simp only [exec, execAdjt, cmdFlags]
  cases requestWrites s.port.req && !s.issue.priv with
  | true => exact ⟨_, rfl, s, rfl, rfl, rfl⟩
  | false => exact ⟨_, rfl, _, rfl, rfl, State.length_modifyCpu ..⟩

theorem finishedWith_sett (s : State) : ∃ t, exec .sett s = .next t ∧ FinishedWith s (cmdFlags .sett s) t := by
  simp only [exec, execSett, cmdFlags]
  cases !s.issue.priv with
  | true => exact ⟨_, rfl, s, rfl, rfl, rfl⟩
  | false => exact ⟨_, rfl, _, rfl, rfl, rfl⟩

theorem finishedWith_of_fx {i : Instr} (hfx : isFx i = true) (hwf : i.WellFormed = true) (s : State) :
    ∃ t, exec i s = .next t ∧ FinishedWith s flagsNone t := by
  obtain ⟨u, hexec, hkept⟩ := exec_fx_eq hfx s
  rw [hwf, State.completeIf_true] at hexec
  exact ⟨_, hexec, u, rfl, hkept⟩

theorem finishedWith_of_exec {i : Instr} (hwf : i.WellFormed = true) (s : State) :
    ∃ t, exec i s = .next t ∧ FinishedWith s (cmdFlags i s) t := by
  cases i with
  | adjt => exact finishedWith_adjt s
  | sett => exact finishedWith_sett s
  | gett | calib | now => exact ⟨_, rfl, _, rfl, rfl, State.length_modifyCpu ..⟩
  | tick | secovf | hupd | hpps => exact ⟨_, rfl, _, rfl, rfl, rfl⟩
  | _ => exact finishedWith_of_fx rfl hwf s

theorem runWord_illegal {w : Word} {why : Illegal} (h : decode w = .illegal why) (s : State) :
    runWord w s = .next s.raiseIllegal := by
  rw [runWord, h]

/-- The STAT write of R129, whatever the word: a decoded command is well formed. -/
theorem finishedWith_of_runWord (w : Word) (s : State) :
    ∃ t, runWord w s = .next t ∧ FinishedWith s (wordFlags w s) t := by
  cases h : decode w with
  | command i =>
    rw [runWord_command h, wordFlags_command h]
    exact finishedWith_of_exec (encodeOfDecode w i h).1 s
  | illegal why =>
    rw [runWord_illegal h, wordFlags_illegal h]
    exact ⟨_, rfl, s, rfl, rfl, rfl⟩

/-! ### The STAT word, field by field -/

theorem statWord_high (k : Clock) (f : CmdFlags) : (statWord k f).extractLsb' 8 24 = 0#24 := by
  refine BitVec.eq_of_getLsbD_eq fun i hi => ?_
  rw [BitVec.getLsbD_extractLsb', statWord_getLsbD]
  simp [show ¬8 + i < 3 by omega, show 8 + i ≠ 4 by omega, show 8 + i ≠ 5 by omega, show 8 + i ≠ 6 by omega,
    show 8 + i ≠ 7 by omega]

theorem statWord_secp (k : Clock) (f : CmdFlags) : (statWord k f).getLsbD 7 = secPending k := statWord_getLsbD k f 7
theorem statWord_mono (k : Clock) (f : CmdFlags) : (statWord k f).getLsbD 6 = f.mono := statWord_getLsbD k f 6
theorem statWord_illegal (k : Clock) (f : CmdFlags) : (statWord k f).getLsbD 5 = f.illegal := statWord_getLsbD k f 5
theorem statWord_denied (k : Clock) (f : CmdFlags) : (statWord k f).getLsbD 4 = f.denied := statWord_getLsbD k f 4

theorem statWord_class (k : Clock) (f : CmdFlags) : (statWord k f).extractLsb' 0 3 = syncClass k := by
  refine BitVec.eq_of_getLsbD_eq fun i hi => ?_
  rw [BitVec.getLsbD_extractLsb', statWord_getLsbD]
  simp [hi]

/-- Settles O12: the word ends with the STAT write with its outcome bits, which R129 places, and touches no other bank. -/
theorem everyCommandEndsWithStat : Obligations.EveryCommandEndsWithStat := by
  intro w s hs
  obtain ⟨t, hrun, hfinished⟩ := finishedWith_of_runWord w s
  have hstat : t.port.stat = statWord t.clock (wordFlags w s) := hfinished.statIs hs
  refine ⟨t, hrun, ?_⟩
  rw [hstat, statWord_secp, statWord_mono, statWord_illegal, statWord_denied]
  refine ⟨statWord_high _ _, rfl, wordFlags_mono_iff w s, wordFlags_illegal_iff w s, wordFlags_denied_iff w s,
    statWord_getLsbD _ _ 3, statWord_class _ _, ?_⟩
  intro p hp
  simp only [State.cpu, (otherBanksKept_of_runWord hrun).banks p hp]

/-! ### An illegal word in a step -/

theorem step_of_cmd {s : State} {a : Access} {rest : List Access} {w : Word} (hpending : s.pending = a :: rest)
    (hshape : a.shape = .word) (hin : a.addr < 128 * s.cfg.ncpu) (hoffset : a.addr % 128 = 0)
    (hkind : a.kind = .write w) : step s = runWord w ({ s with pending := rest }.withIssue a) := by
  have hcmd : regAt (offsetOf a.addr) = some .cmd := (regAt_eq_cmd _).2 hoffset
  rw [step_of_cons s a rest hpending, presentAccess_cmd { s with pending := rest } a w hshape hin hkind hcmd,
    Presented.outcome]

/-- Settles O7: the illegal word is run in the state that presents the access, and does only the STAT write of a bank
which exists. -/
theorem illegalWordOnlySetsStat : Obligations.IllegalWordOnlySetsStat := by
  intro s a rest w why hpending hshape hin hoffset hkind hdecode hbanks
  have hissued : Issued ({ s with pending := rest }.withIssue a) := (bankOf_lt hin).trans_eq hbanks.symm
  have hstat := State.stat_finish _ { flagsNone with illegal := true } hissued
  refine ⟨_, (step_of_cmd hpending hshape hin hoffset hkind).trans (runWord_illegal hdecode _),
    State.frame_finish _ _, hstat, ?_⟩
  rw [State.raiseIllegal, hstat, statWord_illegal]

end Sys2Proof.Machine
end

section
/-! PROOFS. The FX commands (40_fixedpoint.md R154 to R160, R170 to R179, 30_encoding.md R132): the word of each, the
integer its result stands for, and its frame, which all share by the shape of their end. -/

namespace Sys2Proof

/-! ### The word of a command as a number -/

/-- The fields at their positions of 30_encoding.md R121. -/
theorem packFields_eq_ofNat (op : BitVec 8) (rd rs : BitVec 4) (sh : BitVec 6) :
    packFields op rd rs sh =
      BitVec.ofNat 32 (op.toNat * 0x1000000 + rd.toNat * 0x100000 + rs.toNat * 0x10000 + sh.toNat) := by
  have hop := op.isLt
  have hrd := rd.isLt
  have hrs := rs.isLt
  have hsh := sh.isLt
  apply BitVec.eq_of_toNat_eq
  rw [packFields]
  simp only [BitVec.toNat_append, BitVec.toNat_ofNat, Nat.zero_mod]
  rw [← Nat.shiftLeft_add_eq_or_of_lt hrd, ← Nat.shiftLeft_add_eq_or_of_lt hrs,
    ← Nat.shiftLeft_add_eq_or_of_lt (show 0 < 2 ^ 10 by decide), ← Nat.shiftLeft_add_eq_or_of_lt hsh]
  simp only [Nat.shiftLeft_eq]
  omega

/-- Format F-RI (30_encoding.md R122, R132). -/
theorem packFields_formatRI (op : BitVec 8) (rd : BitVec 4) (sh : BitVec 6) :
    packFields op rd 0#4 sh = BitVec.ofNat 32 (op.toNat * 0x1000000 + rd.toNat * 0x100000 + sh.toNat) := by
  rw [packFields_eq_ofNat, BitVec.toNat_ofNat, Nat.zero_mod, Nat.zero_mul, Nat.add_zero]

/-- Format F-RR. -/
theorem packFields_formatRR (op : BitVec 8) (rd rs : BitVec 4) :
    packFields op rd rs 0#6 =
      BitVec.ofNat 32 (op.toNat * 0x1000000 + rd.toNat * 0x100000 + rs.toNat * 0x10000) := by
  rw [packFields_eq_ofNat, BitVec.toNat_ofNat, Nat.zero_mod, Nat.add_zero]

/-- Format F-R. -/
theorem packFields_formatR (op : BitVec 8) (rd : BitVec 4) :
    packFields op rd 0#4 0#6 = BitVec.ofNat 32 (op.toNat * 0x1000000 + rd.toNat * 0x100000) := by
  rw [packFields_formatRI, BitVec.toNat_ofNat, Nat.zero_mod, Nat.add_zero]

/-- Format F-S. -/
theorem packFields_formatS (op : BitVec 8) (rs : BitVec 4) :
    packFields op 0#4 rs 0#6 = BitVec.ofNat 32 (op.toNat * 0x1000000 + rs.toNat * 0x10000) := by
  rw [packFields_formatRR, BitVec.toNat_ofNat, Nat.zero_mod, Nat.zero_mul, Nat.add_zero]

end Sys2Proof

namespace Sys2Proof.Machine

/-! ### The results in the integers of the statements -/

/-- A 64-bit pattern, read as unsigned, is itself modulo 2^64. -/
theorem wrap64_of_toNat (v : BitVec 64) : wrap64 v.toNat = v := by
  rw [wrap64, BitVec.ofInt_natCast, BitVec.ofNat_toNat, BitVec.setWidth_eq]

theorem fxAdd_eq_ofNat (a b : Fx) : fxAdd a b = BitVec.ofNat 64 (a.toNat + b.toNat) := BitVec.add_def a b

theorem fxSub_eq_ofInt (a b : Fx) : fxSub a b = BitVec.ofInt 64 (a.toNat - b.toNat) := by
  change fxSub a b = wrap64 _
  rw [wrap64_sub, wrap64_of_toNat, wrap64_of_toNat, fxSub]

theorem fxNeg_eq_ofInt (a : Fx) : fxNeg a = BitVec.ofInt 64 (0 - a.toNat) := by
  change fxNeg a = wrap64 _
  rw [wrap64_sub, wrap64_of_toNat]
  exact (BitVec.zero_sub a).symm

/-- R158: the low 64 bits of the product do not depend on the sign of the first factor. -/
theorem fxMul_eq_ofNat (a : Fx) (k : Nat) : fxMul a k = BitVec.ofNat 64 (a.toNat * k) := by
  rw [fxMul, wrap64, BitVec.ofInt_mul, BitVec.ofInt_toInt, BitVec.ofInt_natCast, BitVec.ofNat_mul,
    BitVec.ofNat_toNat, BitVec.setWidth_eq]

theorem pairWord_toNat (h l : Word) : (pairWord h l).toNat = h.toNat * 4294967296 + l.toNat := by
  rw [pairWord, BitVec.toNat_append, ← Nat.shiftLeft_add_eq_or_of_lt l.isLt, Nat.shiftLeft_eq]

/-- R160: load then get keeps the 32 low bits. -/
theorem fxGetInt_fxLoadInt (i : Int) : fxGetInt (fxLoadInt i) = (wrap32 i).toInt := by
  have h : hiWord (fxLoadInt i) = wrap32 i := by
    apply BitVec.eq_of_toNat_eq
    rw [hiWord_toNat, fxLoadInt, pairWord_toNat, BitVec.toNat_ofNat]
    omega
  rw [fxGetInt, h]

/-- Settles O25: the integral limb is the floor of the signed value, and load puts the integer there. -/
theorem getIntegerIsFloor : Obligations.GetIntegerIsFloor :=
  ⟨fun a => ⟨fxGetInt_eq a, rfl⟩, fxGetInt_fxLoadInt⟩

/-! ### The two ends of an FX command -/

/-- A command that ends with a write of T[d]; what it writes is v, in the words of its statement. -/
theorem exec_writeT_result {i : Instr} {s : State} {d : BitVec 4} {legal : Bool} {written v : Fx} (hs : Issued s)
    (hd : d.toNat < 8) (hlegal : legal = true) (hexec : exec i s = .next (s.completeIf legal (s.writeT d written)))
    (hv : written = v) : ∃ t, exec i s = .next t ∧ t.readT d = v ∧ TOnly s t d ∧ StatIs t flagsNone := by
  rw [State.completeIf_legal _ _ _ hlegal, hv] at hexec
  exact ⟨_, hexec, readT_complete s d v hd, tOnly_writeT s d v, statIs_writeT s d v hs⟩

/-- A command that ends with a change of its bank which keeps every word but the listed ones. -/
theorem exec_modifyPort_result {i : Instr} {s : State} {f : Port → Port} {legal : Bool} {written : List Nat}
    (hs : Issued s) (hlegal : legal = true) (hexec : exec i s = .next (s.completeIf legal (s.modifyPort f)))
    (hkept : PortsKept s (s.modifyPort f) written) :
    ∃ t, exec i s = .next t ∧ t.port = { f s.port with stat := statWord s.clock flagsNone } ∧
      PortOnly s t (0x01 :: written) ∧ StatIs t flagsNone := by
  rw [State.completeIf_legal _ _ _ hlegal] at hexec
  refine ⟨_, hexec, port_modifyPort_finish s f flagsNone hs, ?_,
    State.stat_finish _ _ (State.issued_modifyPort s f hs)⟩
  exact (portOnly_finish s f flagsNone written hkept).mono fun o ho => by simpa [or_comm] using ho

theorem regLegal_of_lt {r : BitVec 4} (h : r.toNat < 8) : regLegal r = true := (regLegal_iff r).2 h

theorem regLegal_both {d r : BitVec 4} (hd : d.toNat < 8) (hr : r.toNat < 8) : (regLegal d && regLegal r) = true := by
  rw [regLegal_of_lt hd, regLegal_of_lt hr, Bool.and_self]

/-! ### The commands that write T[d] -/

/-- Settles O14: R170, with both operands read before the write. -/
theorem fxaddResult : Obligations.FxaddResult := fun _ d r hd hr hs =>
  ⟨packFields_formatRR 0x01#8 d r, exec_writeT_result hs hd (regLegal_both hd hr) rfl (fxAdd_eq_ofNat _ _)⟩

/-- Settles O15: R171. -/
theorem fxsubResult : Obligations.FxsubResult := fun _ d r hd hr hs =>
  ⟨packFields_formatRR 0x02#8 d r, exec_writeT_result hs hd (regLegal_both hd hr) rfl (fxSub_eq_ofInt _ _)⟩

/-- Settles O16: R172. -/
theorem fxnegResult : Obligations.FxnegResult := fun _ d hd hs =>
  ⟨packFields_formatR 0x03#8 d, exec_writeT_result hs hd (regLegal_of_lt hd) rfl (fxNeg_eq_ofInt _)⟩

/-- Settles O17: R173; the 6 bits of SH stay below the shifts for which FxRsh is not defined. -/
theorem fxrshResult : Obligations.FxrshResult := fun _ d n hd hs =>
  ⟨packFields_formatRI 0x04#8 d n, exec_writeT_result hs hd (regLegal_of_lt hd) rfl (fxRsh_eq _ _ n.isLt)⟩

/-- Settles O18: R174. -/
theorem fxmulResult : Obligations.FxmulResult := fun _ d hd hs =>
  ⟨packFields_formatR 0x05#8 d, exec_writeT_result hs hd (regLegal_of_lt hd) rfl (fxMul_eq_ofNat _ _)⟩

/-- Settles O19: R175. -/
theorem fxlintResult : Obligations.FxlintResult := fun _ d hd hs =>
  ⟨packFields_formatR 0x06#8 d, exec_writeT_result hs hd (regLegal_of_lt hd) rfl (fxLoadInt_eq _)⟩

/-- Settles O21: R177. -/
theorem fxclrResult : Obligations.FxclrResult := fun _ d hd hs =>
  ⟨packFields_formatR 0x08#8 d, exec_writeT_result hs hd (regLegal_of_lt hd) rfl rfl⟩

/-- Settles O22: R178. -/
theorem fxldResult : Obligations.FxldResult := by
  intro s d hd hs
  obtain ⟨t, hexec, hread, hframe, hstat⟩ := exec_writeT_result (i := .fxld d) hs hd (regLegal_of_lt hd) rfl rfl
  refine ⟨packFields_formatR 0x09#8 d, t, hexec, ?_, hframe, hstat⟩
  rw [hread, Port.argPair, pairWord_toNat]

/-! ### The commands that write results -/

theorem Port.read_res0 (q : Port) (x : Word) {r : PortReg} (h : r ≠ .res0) : { q with res0 := x }.read r = q.read r := by
  cases r with
  | res0 => exact absurd rfl h
  | _ => rfl

theorem Port.read_res1 (q : Port) (x : Word) {r : PortReg} (h : r ≠ .res1) : { q with res1 := x }.read r = q.read r := by
  cases r with
  | res1 => exact absurd rfl h
  | _ => rfl

/-- A register that stands at a listed offset is not among those to keep. -/
theorem ne_of_listed {r r' : PortReg} {o : Nat} {written : List Nat} (hreg : regAt o = some r') (ho : o ∈ written)
    (h : ∀ o, regAt o = some r → o ∉ written) : r ≠ r' := by
  rintro rfl
  exact h o hreg ho

theorem portsKept_res0 (s : State) (x : Word) : PortsKept s (s.modifyPort fun q => { q with res0 := x }) [0x06] :=
  portsKept_of_read s _ _ fun _ hr q => q.read_res0 x (ne_of_listed (o := 0x06) rfl (by simp) hr)

theorem portsKept_res0_res1 (s : State) (x y : Word) :
    PortsKept s (s.modifyPort fun q => { q with res0 := x, res1 := y }) [0x06, 0x07] :=
  portsKept_of_read s _ _ fun _ hr q =>
    (Port.read_res1 { q with res0 := x } y (ne_of_listed (o := 0x07) rfl (by simp) hr)).trans
      (q.read_res0 x (ne_of_listed (o := 0x06) rfl (by simp) hr))

/-- Settles O20: R176. -/
theorem fxgintResult : Obligations.FxgintResult := by
  intro s r hr hs
  obtain ⟨t, hexec, hport, hframe, hstat⟩ :=
    exec_modifyPort_result (i := .fxgint r) hs (regLegal_of_lt hr) rfl (portsKept_res0 s _)
  refine ⟨packFields_formatS 0x07#8 r, t, hexec, ?_, hframe, hstat⟩
  rw [hport, ← fxGetInt_eq]
  rfl

/-- Settles O23: R179. -/
theorem fxstResult : Obligations.FxstResult := by
  intro s r hr hs
  obtain ⟨t, hexec, hport, hframe, hstat⟩ :=
    exec_modifyPort_result (i := .fxst r) hs (regLegal_of_lt hr) rfl (portsKept_res0_res1 s _ _)
  refine ⟨packFields_formatS 0x0A#8 r, t, hexec, ?_, ?_, hframe, hstat⟩
  · rw [hport, ← loWord_toNat]
  · rw [hport, ← hiWord_toNat]

end Sys2Proof.Machine
end

section
/-! PROOFS. The split backend (40_fixedpoint.md R162, R163): each limb form gives the limbs of the 64-bit result. The
forms with a carry, a borrow or partial products are compared as numbers, the shift limb by limb. -/

namespace Sys2Proof.Machine

/-! ### Limbs and patterns -/

theorem toLimbs_pairWord (h l : Word) : toLimbs (pairWord h l) = ⟨h, l⟩ := by
  have hl := l.isLt
  rw [toLimbs, Limbs.mk.injEq]
  constructor <;> apply BitVec.eq_of_toNat_eq
  · rw [hiWord_toNat, pairWord_toNat]
    omega
  · rw [loWord_toNat, pairWord_toNat]
    omega

/-- Two limbs are those of a pattern when they are worth the same number. -/
theorem toLimbs_eq_of_toNat {v : Fx} {h l : Word} (heq : v.toNat = h.toNat * 4294967296 + l.toNat) :
    toLimbs v = ⟨h, l⟩ := by
  rw [← toLimbs_pairWord]
  exact congrArg toLimbs (BitVec.eq_of_toNat_eq (heq.trans (pairWord_toNat h l).symm))

theorem toNat_eq_limbs (v : Fx) : v.toNat = (hiWord v).toNat * 4294967296 + (loWord v).toNat := by
  rw [hiWord_toNat, loWord_toNat]
  omega

/-- The fraction limb is the signed value modulo 2^32. -/
theorem loWord_eq_wrap32 (v : Fx) : loWord v = wrap32 v.toInt := by
  apply BitVec.eq_of_toNat_eq
  rw [loWord_toNat, wrap32, BitVec.toNat_ofInt, BitVec.toInt_eq_toNat_cond]
  split_ifs <;> omega

/-! ### Carry and borrow -/

theorem toLimbs_fxAdd (a b : Fx) : toLimbs (fxAdd a b) = limbAdd (toLimbs a) (toLimbs b) := by
  apply toLimbs_eq_of_toNat
  rw [fxAdd, BitVec.toNat_add, toNat_eq_limbs a, toNat_eq_limbs b]
  simp only [toLimbs, BitVec.toNat_ofNat]
  omega

/-- A difference in limbs: what the fraction limb lacks is borrowed from the integral one. -/
theorem emod_of_borrow (h h' : Nat) {l l' : Nat} (hl : l < 4294967296) (hl' : l' < 4294967296) :
    (((h * 4294967296 + l : Nat) : Int) - (h' * 4294967296 + l' : Nat)) % 18446744073709551616 =
      ((h : Int) - h' - if l < l' then 1 else 0) % 4294967296 * 4294967296 + ((l : Int) - l') % 4294967296 := by
  split_ifs <;> omega

theorem toLimbs_fxSub (a b : Fx) : toLimbs (fxSub a b) = limbSub (toLimbs a) (toLimbs b) := by
  apply toLimbs_eq_of_toNat
  rw [fxSub_eq_ofInt, BitVec.toNat_ofInt, toNat_eq_limbs a, toNat_eq_limbs b]
  simp only [toLimbs, wrap32, BitVec.toNat_ofInt]
  rw [show ((2 ^ 64 : Nat) : Int) = 18446744073709551616 from rfl,
    emod_of_borrow _ _ (loWord a).isLt (loWord b).isLt]
  omega

/-- Negation is subtraction from 0: its borrow is 1 when the fraction limb is not 0. -/
theorem limbNeg_eq_limbSub (x : Limbs) : limbNeg x = limbSub limbClr x := by
  have hborrow : x.lo ≠ 0#32 ↔ (0#32).toNat < x.lo.toNat := by
    rw [← BitVec.toNat_ne_iff_ne, BitVec.toNat_ofNat]
    omega
  simp only [limbNeg, limbSub, limbClr, hborrow]
  rfl

theorem toLimbs_fxClr : toLimbs fxClr = limbClr := by decide

theorem toLimbs_fxNeg (a : Fx) : toLimbs (fxNeg a) = limbNeg (toLimbs a) := by
  rw [limbNeg_eq_limbSub, ← toLimbs_fxClr, ← toLimbs_fxSub]
  exact congrArg toLimbs (BitVec.zero_sub a).symm

/-! ### Partial products -/

theorem toLimbs_fxMul (a : Fx) (k : Nat) : toLimbs (fxMul a k) = limbMul (toLimbs a) k := by
  apply toLimbs_eq_of_toNat
  rw [fxMul_eq_ofNat, BitVec.toNat_ofNat, toNat_eq_limbs a, Nat.add_mul, Nat.mul_right_comm]
  simp only [toLimbs, BitVec.toNat_ofNat]
  omega

/-- The scalar split into limbs: the partial product of the two integral limbs falls out of 64 bits. -/
theorem mul_eq_partial_products (h l k : Nat) :
    (h * 4294967296 + l) * k =
      h * (k / 4294967296) * 18446744073709551616 + l * (k / 4294967296) * 4294967296 +
        (h * (k % 4294967296) * 4294967296 + l * (k % 4294967296)) := by
  conv_lhs => rw [← Nat.div_add_mod k 4294967296]
  ring

theorem toLimbs_fxMul_wide (a : Fx) (k : Nat) : toLimbs (fxMul a k) = limbMulWide (toLimbs a) k := by
  apply toLimbs_eq_of_toNat
  rw [fxMul_eq_ofNat, BitVec.toNat_ofNat, toNat_eq_limbs a, mul_eq_partial_products]
  simp only [toLimbs, limbMul, BitVec.toNat_ofNat]
  omega

/-! ### The shift -/

theorem hiWord_fxRsh (a : Fx) {n : Nat} (h : n < 64) : hiWord (fxRsh a n) = wrap32 ((hiWord a).toInt / 2 ^ n) := by
  rw [← wrap32_of_toInt (hiWord (fxRsh a n)), hiWord_toInt, hiWord_toInt, fxRsh_toInt a n h,
    Int.ediv_ediv_of_nonneg (by positivity), Int.ediv_ediv_of_nonneg (by decide), Int.mul_comm]

/-- Nothing but the sign is left of a limb shifted by 32 or more. -/
theorem wrap32_shifted_out (h : Word) {n : Nat} (hn : 32 ≤ n) : wrap32 (h.toInt / 2 ^ n) = signLimb h := by
  have hb := toInt32_bounds h
  have hp : (2 : Int) ^ 32 ≤ 2 ^ n := pow_le_pow_right₀ (by decide) hn
  rw [signLimb, BitVec.msb_eq_toInt]
  by_cases hneg : h.toInt < 0
  · have : h.toInt / 2 ^ n = -1 := Int.ediv_eq_neg_one_of_neg_of_le hneg (by omega)
    simp [this, hneg, wrap32]
  · rw [Int.ediv_eq_zero_of_lt (by omega) (by omega)]
    simp [hneg, wrap32]

/-- Fewer than 32 places: the low bits of the integral limb move into the fraction limb. -/
theorem loWord_fxRsh_lt (a : Fx) {n : Nat} (h : n < 32) :
    loWord (fxRsh a n) = (loWord a >>> n) ||| (hiWord a <<< (32 - n)) := by
  refine BitVec.eq_of_getLsbD_eq fun i hi => ?_
  rw [fxRsh, if_pos (by omega)]
  simp only [loWord, hiWord, BitVec.getLsbD_extractLsb', BitVec.getLsbD_or, BitVec.getLsbD_ushiftRight,
    BitVec.getLsbD_shiftLeft, BitVec.getLsbD_sshiftRight]
  by_cases hcross : n + i < 32
  · simp [hi, hcross, show i < 32 - n by omega, show n + i < 64 by omega, show ¬64 ≤ i by omega]
  · simp [hi, hcross, show ¬i < 32 - n by omega, show n + i < 64 by omega, show ¬64 ≤ i by omega,
      show i - (32 - n) < 32 by omega, show 32 + (i - (32 - n)) = n + i by omega]

/-- From 32 places on: the fraction limb is the integral one, shifted by the rest. -/
theorem loWord_fxRsh_ge (a : Fx) {n : Nat} (hlow : 32 ≤ n) (hhigh : n < 64) :
    loWord (fxRsh a n) = wrap32 ((hiWord a).toInt / 2 ^ (n - 32)) := by
  obtain ⟨m, rfl⟩ := Nat.exists_eq_add_of_le hlow
  rw [loWord_eq_wrap32, fxRsh_toInt a _ hhigh, hiWord_toInt, Int.ediv_ediv_of_nonneg (by decide), pow_add,
    Nat.add_sub_cancel_left]
  rfl

theorem toLimbs_fxRsh (a : Fx) (n : Nat) (h : n ≤ 63) : toLimbs (fxRsh a n) = limbRsh (toLimbs a) n := by
  have hn : n < 64 := by omega
  rw [limbRsh]
  split_ifs with h0 h31 h32
  · subst h0
    rw [fxRsh, if_pos hn, BitVec.sshiftRight_zero]
  · rw [toLimbs, hiWord_fxRsh a hn, loWord_fxRsh_lt a (by omega)]
    rfl
  · subst h32
    rw [toLimbs, hiWord_fxRsh a hn, loWord_fxRsh_ge a (le_refl _) hn, wrap32_shifted_out _ (le_refl _)]
    simp [toLimbs, wrap32_of_toInt]
  · rw [toLimbs, hiWord_fxRsh a hn, loWord_fxRsh_ge a (by omega) hn, wrap32_shifted_out _ (by omega)]
    rfl

/-- Settles O24: function by function; the products agree for every scalar, so their bounds are not used. -/
theorem splitBackendAgrees : Obligations.SplitBackendAgrees :=
  ⟨toLimbs_fxAdd, toLimbs_fxSub, toLimbs_fxNeg, toLimbs_fxRsh, fun a k _ => toLimbs_fxMul a k,
    fun a k _ => toLimbs_fxMul_wide a k, fun _ => toLimbs_pairWord _ _, fun _ => rfl, toLimbs_fxClr⟩

end Sys2Proof.Machine
end

section
/-! PROOFS. The spending step of SECOVF (42_tick_second.md R246): the share is floored and has the sign of OFFSET. -/

namespace Sys2Proof.Machine

/-- SECOVF leaves OFFSET less its share; neither the leap machine nor the countdown touches it (R242, R248). -/
theorem exec_secovf_offset {s t : State} (hs : Inv s) (h : exec .secovf s = .next t) :
    t.clock.offset =
      wrap64 (s.clock.offset.toInt - s.clock.offset.toInt / 2 ^ spendShift s.cfg s.clock s.pps) := by
  cases h
  rw [State.complete_clock, expireSignal_frame, secondClock_eq _ _ _ (spendShift_lt hs.cfg hs.clock hs.pps)]

/-- Settles O39: the share lies between 0 and OFFSET, so the rest does too and no wrap occurs. -/
theorem residualNeverGrows : Obligations.ResidualNeverGrows := by
  intro s hs
  obtain ⟨t, hexec⟩ := exec_next .secovf s
  have hshare := decay_bounds 0 s.clock.offset.toInt (spendShift s.cfg s.clock s.pps)
  rw [Int.zero_add, Int.sub_zero] at hshare
  have hb := toInt64_bounds s.clock.offset
  refine ⟨t, hexec, ?_⟩
  rw [exec_secovf_offset hs hexec, wrap64_toInt _ (by omega) (by omega)]
  omega

end Sys2Proof.Machine
end

section
/-! PROOFS. The control interface (41_control.md): the classification, what a permitted ADJT leaves field by field, the
denied ADJT, and GETT. -/

namespace Sys2Proof.Machine

/-! ### The classification -/

/-- Settles O13: the rows of R210 all give ERROR, so they are one `||`. -/
theorem classificationFollowsFlags : Obligations.ClassificationFollowsFlags := by
  intro k
  simp only [syncClass, Bool.or_eq_true, ite_or]
  rfl

/-! ### The outcome of ADJT -/

/-- The clock a permitted ADJT leaves (R190). -/
def State.adjustedClock (s : State) : Clock := adjustClock s.cfg s.port.req s.clock

/-- The PPS filter state a permitted ADJT leaves (R194, R198). -/
def State.adjustedPps (s : State) : Pps := adjustPps s.port.req s.clock s.pps

/-- The state with both, before the response and STAT are written (R204). -/
def State.adjusted (s : State) : State := { s with clock := s.adjustedClock, pps := s.adjustedPps }

/-- What a permitted ADJT writes into its bank before STAT (R204, R205). -/
def State.respond (s : State) : State :=
  s.adjusted.modifyPort fun q => { q with rsp := snapshot s.adjustedClock s.adjustedPps }

theorem denies_iff_not_permitted (s : State) :
    (requestWrites s.port.req && !s.issue.priv) = true ↔ ¬AdjtPermitted s := by
  simp [requestWrites, AdjtPermitted]

theorem exec_adjt_permitted {s : State} (h : AdjtPermitted s) : exec .adjt s = .next s.respond.complete :=
  if_neg fun hdenied => (denies_iff_not_permitted s).1 hdenied h

theorem exec_adjt_denied {s : State} (h : ¬AdjtPermitted s) : exec .adjt s = .next s.raiseDenied :=
  if_pos ((denies_iff_not_permitted s).2 h)

/-! ### The bank of ADJT -/

/-- A register of the words to keep stands at none of the listed offsets. -/
theorem absurd_of_listed {r : PortReg} {written : List Nat} (hlisted : ∃ o ∈ written, regAt o = some r)
    (hkept : ∀ o, regAt o = some r → o ∉ written) : False := by
  obtain ⟨o, ho, hreg⟩ := hlisted
  exact hkept o hreg ho

/-- The response block is the words 0x20 to 0x43 (20_memory.md R92). -/
theorem portsKept_rsp (s : State) (x : Rsp) :
    PortsKept s (s.modifyPort fun q => { q with rsp := x }) (List.range' 0x20 36) := by
  refine portsKept_of_read s _ _ fun r hr q => ?_
  cases r with
  | cmd | stat | arg0 | arg1 | arg2 | arg3 | res0 | res1 | res2 | res3 => rfl
  | reqModes | reqOffsetLo | reqOffsetHi | reqFreqLo | reqFreqHi => rfl
  | reqMaxerror | reqEsterror | reqStatus | reqConstant | reqShift => rfl
  | _ => exact (absurd_of_listed (by decide) hr).elim

/-- The clock and the PPS filter state are no part of the bank frame. -/
theorem BankFrame.of_discipline {s t : State} {k : Clock} {v : Pps} {written : List Nat}
    (h : BankFrame { s with clock := k, pps := v } t written) : BankFrame s t written :=
  ⟨⟨h.drive.cfg, h.drive.issue, h.drive.pending, h.drive.reads, h.drive.banks⟩, h.ports, h.interps, h.last⟩

theorem bankFrame_respond (s : State) : BankFrame s s.respond.complete adjtWords := by
  have hports := portsKept_rsp s.adjusted (snapshot s.adjustedClock s.adjustedPps)
  have hbank := (portOnly_finish s.adjusted _ flagsNone _ hports).bank
  exact hbank.of_discipline.mono fun o ho => by
    rw [adjtWords, List.mem_cons]
    exact (List.mem_append.1 ho).symm.imp_left List.mem_singleton.1

theorem statIs_respond {s : State} (h : Issued s) : StatIs s.respond.complete flagsNone :=
  State.stat_finish _ _ (State.issued_modifyPort s.adjusted _ h)

theorem rsp_respond {s : State} (h : Issued s) :
    s.respond.complete.port.rsp = snapshot s.adjustedClock s.adjustedPps := by
  have hport := port_modifyPort_finish s.adjusted
    (fun q => { q with rsp := snapshot s.adjustedClock s.adjustedPps }) flagsNone h
  exact congrArg Port.rsp hport

/-- The response block in integers (R205). -/
theorem snapshot_eq (k : Clock) (v : Pps) :
    snapshot k v =
      { offset :=
          BitVec.ofInt 64
            (if k.has .nano then k.offset.toInt / 4294967296 else (k.offset.toInt / 4294967296).tdiv 1000)
        freq := BitVec.ofInt 64 (k.freq.toInt / 65536000)
        maxerror := k.maxerror
        esterror := k.esterror
        status := BitVec.ofNat 32 k.status.toNat
        constant := BitVec.ofNat 32 k.tc
        tai := k.tai
        state := BitVec.ofNat 32 k.state.toNat
        sec := k.sec
        nsec := k.nsec
        shift := BitVec.ofNat 32 v.shift
        shiftmax := BitVec.ofNat 32 v.shiftmax
        valid := v.valid
        ppsfreq := BitVec.ofInt 64 (v.freq.toInt / 65536000)
        jitter := if k.has .nano then v.jitter else BitVec.ofInt 32 (v.jitter.toInt.tdiv 1000)
        stabil := v.stabil
        jitcnt := v.jitcnt
        calcnt := v.calcnt
        errcnt := v.errcnt
        stbcnt := v.stbcnt
        reftime := k.reftime
        rawoffset := k.offset
        rawfreq := k.freq
        rawadj := k.adj
        rawphase := k.phase
        rawppsfreq := v.freq } := by
  have hoffset : rspOffset k = BitVec.ofInt 64
      (if k.has .nano then k.offset.toInt / 4294967296 else (k.offset.toInt / 4294967296).tdiv 1000) := by
    rw [rspOffset, fxGetInt_eq, wrap64]
  have hjitter : rspJitter k v = if k.has .nano then v.jitter else BitVec.ofInt 32 (v.jitter.toInt.tdiv 1000) := by
    rw [rspJitter, apply_ite wrap32, wrap32_of_toInt, wrap32]
  rw [snapshot, hoffset, hjitter, BitVec.ofNat_toNat, BitVec.ofNat_toNat, wrap64, wrap64]

/-- Settles O28: the snapshot is taken of the clock and the PPS filter state that stay, and STAT is no part of it. -/
theorem adjtReturnsSnapshot : Obligations.AdjtReturnsSnapshot := fun s hs hp =>
  ⟨_, exec_adjt_permitted hp, statIs_respond hs, bankFrame_respond s, rfl, rfl, rfl,
    (rsp_respond hs).trans (snapshot_eq _ _)⟩

/-! ### A request that selects nothing, or leaves a write out -/

theorem writeResolution_of_unselected {r : Req} (hnano : modeHas r .nano = false) (hmicro : modeHas r .micro = false)
    (k : Clock) : writeResolution r k = k := by
  simp [writeResolution, hnano, hmicro]

theorem writeSource_of_unselected {r : Req} (hclkb : modeHas r .clkb = false) (hclka : modeHas r .clka = false)
    (k : Clock) : writeSource r k = k := by
  simp [writeSource, hclkb, hclka]

theorem writeOffset_of_unselected {r : Req} (h : modeHas r .offset = false) (c : Params) (k : Clock) :
    writeOffset c r k = k := by
  simp [writeOffset, h]

theorem writeFrequency_of_unselected {r : Req} (h : modeHas r .frequency = false) (k : Clock) :
    writeFrequency r k = k := by
  simp [writeFrequency, h]

theorem modeHas_of_modesOf_zero {r : Req} (h : modesOf r = 0#16) (b : ModeBit) : modeHas r b = false := by
  rw [modeHas, h, BitVec.getLsbD_zero]

theorem adjustClock_of_modesOf_zero {r : Req} (h : modesOf r = 0#16) (c : Params) (k : Clock) :
    adjustClock c r k = k := by
  have hnone := modeHas_of_modesOf_zero h
  rw [adjustClock, writeFrequency_of_unselected (hnone _), writeOffset_of_unselected (hnone _),
    writeSource_of_unselected (hnone _) (hnone _), writeResolution_of_unselected (hnone _) (hnone _)]
  simp [writeErrors, disablePll, disablesPll, writeStatus, writeConstant, hnone]

theorem adjustPps_of_modesOf_zero {r : Req} (h : modesOf r = 0#16) (k : Clock) (v : Pps) : adjustPps r k v = v := by
  simp [adjustPps, disablesPll, modeHas_of_modesOf_zero h]

/-- Settles O27: a permitted request with no field selected writes the response alone, a denied one only STAT. -/
theorem adjtPrivilege : Obligations.AdjtPrivilege := by
  intro s hs
  by_cases hp : AdjtPermitted s
  · refine ⟨_, exec_adjt_permitted hp, fun hmodes hpriv => ?_, fun hmodes => ?_, fun _ => statIs_respond hs⟩
    · rcases hp with hnone | hprivileged
      · exact absurd hnone hmodes
      · exact absurd hprivileged (by rw [hpriv]; decide)
    · exact ⟨rfl, adjustClock_of_modesOf_zero hmodes _ _, adjustPps_of_modesOf_zero hmodes _ _, rfl,
        bankFrame_respond s, statIs_respond hs⟩
  · exact ⟨_, exec_adjt_denied hp, fun _ _ => ⟨State.frame_finish s _, State.stat_finish s _ hs⟩,
      fun hmodes => absurd (.inl hmodes) hp, fun hpriv => absurd (.inr hpriv) hp⟩

/-! ### The plain fields -/

theorem disablesPll_eq (r : Req) (k : Clock) :
    disablesPll r k = (r.modes.getLsbD 4 && k.status.getLsbD 0 && !r.status.getLsbD 0) := by
  rw [disablesPll, modeHas_eq]
  rfl

/-- The fields of the clock that the estimator and the frequency write leave alone (R193, R194, R196, R197). -/
theorem State.adjustedClock_fields (s : State) :
    s.adjustedClock =
      { s.clock with
        maxerror := if s.port.req.modes.getLsbD 2 then s.port.req.maxerror else s.clock.maxerror
        esterror := if s.port.req.modes.getLsbD 3 then s.port.req.esterror else s.clock.esterror
        state :=
          if s.port.req.modes.getLsbD 4 && s.clock.status.getLsbD 0 && !s.port.req.status.getLsbD 0 then 0#3
          else s.clock.state
        tc :=
          if s.port.req.modes.getLsbD 5 then (clampInt s.port.req.constant.toInt 0 s.cfg.maxtc).toNat else s.clock.tc
        tai := if s.port.req.modes.getLsbD 7 then s.port.req.constant else s.clock.tai
        offset := s.adjustedClock.offset
        freq := s.adjustedClock.freq
        reftime := s.adjustedClock.reftime
        status := s.adjustedClock.status } := by
  have h := adjustClock_frame s.cfg s.port.req s.clock
  rw [adjustEarly_eq, disablesPll_eq, modeHas_eq, modeHas_eq, modeHas_eq, modeHas_eq] at h
  exact h

/-- A clamp to a range of naturals, kept as a natural. -/
theorem toNat_clampInt (x : Int) {lo hi : Int} (hlo : 0 ≤ lo) (h : lo ≤ hi) :
    ((clampInt x lo hi).toNat : Int) = max lo (min x hi) := by
  rw [clampInt_eq x lo hi h]
  omega

/-- Settles O29: field by field, with the two clamps in integers. -/
theorem adjtWritesSelectedFields : Obligations.AdjtWritesSelectedFields := by
  intro s _ hp
  have hclock : s.respond.complete.clock = _ := s.adjustedClock_fields
  have hpps : s.respond.complete.pps = adjustPps s.port.req s.clock s.pps := rfl
  refine ⟨_, exec_adjt_permitted hp, ?_⟩
  rw [hpps, hclock]
  refine ⟨rfl, rfl, ?_, rfl, ?_, rfl, rfl, rfl, rfl, ?_, rfl⟩
  · rw [apply_ite Nat.cast, toNat_clampInt _ le_rfl (Int.natCast_nonneg _)]
  · rw [adjustPps, apply_ite Nat.cast, toNat_clampInt _ (by decide) (by decide), modeHas_eq]
    rfl
  · intro (hstatus : s.port.req.modes.getLsbD 4 = false)
    rw [adjustPps, disablesPll_eq, hstatus]
    rfl

/-! ### The bits of STATUS -/

/-- The bits of STATUS but MODE, which the estimator moves: disabling, the status write, then NANO, MICRO, CLKB and CLKA
(R194, R195, R199, R200). -/
theorem State.adjustedClock_status (s : State) {n : Nat} (h : n ≠ 14) :
    s.adjustedClock.status.getLsbD n =
      if n = 15 then
        (if s.port.req.modes.getLsbD 15 then false else if s.port.req.modes.getLsbD 14 then true
          else !disablesPll s.port.req s.clock && s.clock.status.getLsbD 15)
      else if n = 13 then
        (if s.port.req.modes.getLsbD 12 then false else if s.port.req.modes.getLsbD 13 then true
          else !disablesPll s.port.req s.clock && s.clock.status.getLsbD 13)
      else if n < 8 then
        (if s.port.req.modes.getLsbD 4 then s.port.req.status.getLsbD n else s.clock.status.getLsbD n)
      else !disablesPll s.port.req s.clock && s.clock.status.getLsbD n := by
  rw [State.adjustedClock, adjustClock_status _ _ _ _ h, adjustEarly_status, modeHas_eq, modeHas_eq, modeHas_eq,
    modeHas_eq, modeHas_eq]
  rfl

/-- Settles O31: bits 13 and 15 of STATUS. -/
theorem adjtResolutionAndSource : Obligations.AdjtResolutionAndSource := by
  intro s _ hp
  have hnano := s.adjustedClock_status (n := 13) (by decide)
  have hclk := s.adjustedClock_status (n := 15) (by decide)
  rw [disablesPll_eq] at hnano hclk
  exact ⟨_, exec_adjt_permitted hp, hnano, hclk⟩

/-- A mode bit under a mask that meets no mode is not selected. -/
theorem modeHas_of_and_eq_zero {r : Req} {mask : Word} (h : r.modes &&& mask = 0#32) (b : ModeBit)
    (hb : mask.getLsbD (modePos b) = true) : modeHas r b = false := by
  have hbit := congrArg (BitVec.getLsbD · (modePos b)) h
  simp only [BitVec.getLsbD_and, hb, Bool.and_true, BitVec.getLsbD_zero] at hbit
  rw [modeHas_eq, hbit]

theorem writeFrequency_frame (r : Req) (k : Clock) :
    writeFrequency r k = { k with freq := (writeFrequency r k).freq } := by
  unfold writeFrequency
  split <;> rfl

/-- STATUS where the request writes no bit of it but the low half: disabling, then the status write (R194, R195). -/
theorem adjustClock_status_of_status_only {r : Req} (hstatus : modeHas r .status = true)
    (h : r.modes &&& 0xF001#32 = 0#32) (c : Params) (k : Clock) :
    (adjustClock c r k).status =
      ((if disablesPll r k then 0x0040#16 else k.status) &&& 0xFF00#16) ||| (r.status.setWidth 16 &&& 0x00FF#16) := by
  have hunselected := modeHas_of_and_eq_zero h
  rw [adjustClock, writeFrequency_frame, writeOffset_of_unselected (hunselected .offset (by decide)),
    writeSource_of_unselected (hunselected .clkb (by decide)) (hunselected .clka (by decide)),
    writeResolution_of_unselected (hunselected .nano (by decide)) (hunselected .micro (by decide))]
  have hdisabled : (disablePll r (writeErrors r k)).status = if disablesPll r k then 0x0040#16 else k.status := by
    rw [disablePll, apply_ite Clock.status]
    rfl
  rw [← hdisabled, writeConstant, writeStatus, if_pos hstatus]

/-- Settles O30: STATUS bit by bit, and as one word where nothing but the status write touches it. -/
theorem adjtStatusWrite : Obligations.AdjtStatusWrite := by
  intro s _ hp
  refine ⟨_, exec_adjt_permitted hp, ?_, ?_, ?_, ?_, ?_⟩
  · exact congrArg Clock.state s.adjustedClock_fields
  · show (adjustPps s.port.req s.clock s.pps).shift = _
    rw [adjustPps, disablesPll_eq]
  · intro n hn
    refine (s.adjustedClock_status (by omega)).trans ?_
    rw [if_neg (by omega), if_neg (by omega), if_pos hn]
  · intro n hlow hhigh
    refine (s.adjustedClock_status (by omega)).trans ?_
    rw [if_neg (by omega), if_neg (by omega), if_neg (by omega), disablesPll_eq]
  · intro hstatus hmask
    refine (adjustClock_status_of_status_only ((modeHas_eq _ _).trans hstatus) hmask _ _).trans ?_
    rw [disablesPll_eq]

/-! ### The offset and the frequency -/

/-- Putting a bit of STATUS back where every other bit is kept. -/
theorem statusPut_eq_of_others {v w : BitVec 16} {b : StatusBit}
    (h : ∀ n, n ≠ statusPos b → v.getLsbD n = w.getLsbD n) : statusPut v b (statusHas w b) = w := by
  refine BitVec.eq_of_getLsbD_eq fun n _ => ?_
  rw [statusPut_getLsbD]
  split_ifs with hn
  · rw [hn, statusHas]
  · exact h n hn

theorem adjustEarly_mode (c : Params) (r : Req) (k : Clock) :
    (adjustEarly c r k).has .mode = (!disablesPll r k && k.has .mode) := adjustEarly_status c r k 14

/-- The clock the estimator sees, from the clock ADJT leaves: OFFSET, FREQ and REFTIME of before, MODE as the status
write left it (R190, R201). -/
theorem adjustEarly_of_adjustClock (c : Params) (r : Req) (k : Clock) :
    { adjustClock c r k with
      offset := k.offset
      freq := k.freq
      reftime := k.reftime
      status := statusPut (adjustClock c r k).status .mode (!disablesPll r k && k.has .mode) } =
      adjustEarly c r k := by
  have hstatus : statusPut (adjustClock c r k).status .mode (!disablesPll r k && k.has .mode) =
      (adjustEarly c r k).status := by
    rw [← adjustEarly_mode c]
    exact statusPut_eq_of_others fun n hn => adjustClock_status c r k n hn
  rw [hstatus, adjustClock_frame, adjustEarly_eq]

theorem writeOffset_eq (c : Params) (r : Req) (k : Clock) :
    writeOffset c r k =
      if r.modes.getLsbD 0 then
        hardUpdate c k
          (if k.has .nano then (r.offsetHi ++ r.offsetLo).toInt else (r.offsetHi ++ r.offsetLo).toInt * 1000)
      else k := by
  rw [writeOffset, modeHas_eq]
  rfl

theorem adjustClock_nano (c : Params) (r : Req) (k : Clock) :
    (adjustClock c r k).has .nano = (adjustEarly c r k).has .nano := adjustClock_status c r k 13 (by decide)

/-- Settles O32: the offset write acts on the clock the early writes left, and only the frequency write follows it. -/
theorem adjtOffsetWrite : Obligations.AdjtOffsetWrite := by
  intro s _ hp
  refine ⟨_, exec_adjt_permitted hp, ?_⟩
  intro k h
  have hk : k = adjustEarly s.cfg s.port.req s.clock := by
    rw [← adjustEarly_of_adjustClock, disablesPll_eq]
    rfl
  have hh : h = writeOffset s.cfg s.port.req k := by
    rw [writeOffset_eq, hk, ← adjustClock_nano, ← hk]
    rfl
  have hclock : s.respond.complete.clock = writeFrequency s.port.req h := by
    rw [hh, hk]
    rfl
  rw [hclock]
  refine ⟨writeFrequency_frame _ _, fun hfreq => ?_⟩
  rw [writeFrequency_of_unselected ((modeHas_eq _ _).trans hfreq)]

theorem writeFrequency_freq {r : Req} (h : modeHas r .frequency = true) (k : Clock) :
    (writeFrequency r k).freq.toInt =
      max (-(500000 * 4294967296)) (min (r.freqPair.toInt * 65536000) (500000 * 4294967296)) := by
  rw [writeFrequency, if_pos h]
  dsimp only [maxFreq, fxOne, scaledPpm]
  rw [clampInt_eq _ _ _ (by decide), wrap64_toInt _ (by omega) (by omega), Int.neg_mul]

/-- Settles O33: the frequency write comes last, so its clamp stands whatever the estimator did. -/
theorem adjtFrequencyWrite : Obligations.AdjtFrequencyWrite := by
  intro s _ hp hfreq
  refine ⟨_, exec_adjt_permitted hp, writeFrequency_freq ((modeHas_eq _ _).trans hfreq) _, rfl, fun hoffset => ?_⟩
  have hclock : s.respond.complete.clock = writeFrequency s.port.req (adjustEarly s.cfg s.port.req s.clock) := by
    rw [← writeOffset_of_unselected ((modeHas_eq _ _).trans hoffset) s.cfg (adjustEarly _ _ _)]
    rfl
  rw [hclock, writeFrequency_frame]
  refine ⟨?_, ?_, ?_⟩
  · rw [adjustEarly_eq]
  · rw [adjustEarly_eq]
  · exact (adjustEarly_mode _ _ _).trans (by rw [disablesPll_eq])

/-! ### GETT -/

/-- The words of RSP_SEC, RSP_NSEC, RSP_MAXERROR, RSP_ESTERROR and RSP_TAI (20_memory.md R92). -/
theorem portsKept_clockReply (s : State) (sec : BitVec 64) (nsec maxerror esterror tai : Word) :
    PortsKept s
      (s.modifyPort fun q =>
        { q with
          rsp := { q.rsp with sec := sec, nsec := nsec, maxerror := maxerror, esterror := esterror, tai := tai } })
      [0x24, 0x25, 0x28, 0x2A, 0x2B, 0x2C] := by
  refine portsKept_of_read s _ _ fun r hr q => ?_
  cases r with
  | rspMaxerror | rspEsterror | rspTai | rspSecLo | rspSecHi | rspNsec =>
    exact (absurd_of_listed (by decide) hr).elim
  | _ => rfl

/-- Settles O34: GETT ends like an FX command that writes results; its results are response words. -/
theorem gettReturnsClock : Obligations.GettReturnsClock := by
  intro s hs
  obtain ⟨t, hexec, hport, hframe, hstat⟩ :=
    exec_modifyPort_result (i := .gett) (legal := true) hs rfl rfl (portsKept_clockReply s _ _ _ _ _)
  refine ⟨rfl, t, hexec, hstat, hframe, ?_⟩
  rw [hport]
  exact ⟨rfl, rfl, rfl, rfl, rfl⟩

end Sys2Proof.Machine
end

section
/-! PROOFS. The tick and the second (42_tick_second.md): TICK once and over n ticks, the normalisation, the leap table
and the spending of SECOVF, and SETT. -/

namespace Sys2Proof.Machine

/-! ### The quotient and the remainder by HZ -/

/-- The whole nanoseconds by HZ are one floored quotient of the pattern (R235). -/
theorem tickQuotient_eq (x : Int) (hz : Nat) : x / 4294967296 / (hz : Int) = x / (hz * 4294967296) := by
  rw [Int.ediv_ediv_of_nonneg (by decide), Int.mul_comm]

/-- What the carry leaves of the pattern is its floored remainder (R235). -/
theorem tickRemainder_eq (x : Int) (hz : Nat) :
    x - x / 4294967296 / (hz : Int) * hz * 4294967296 = x % (hz * 4294967296) := by
  rw [tickQuotient_eq, Int.mul_assoc, Int.emod_def, Int.mul_comm (x / _)]

/-- The fraction below the binary point takes no part in the remainder by HZ. -/
theorem tickRemainder_ediv (x : Int) (hz : Nat) :
    x % (hz * 4294967296) / 4294967296 = x / 4294967296 % (hz : Int) := by
  rw [← tickRemainder_eq, Int.emod_def, Int.mul_comm (hz : Int)]
  omega

/-- Carrying before an addition and after it is carrying once after it. -/
theorem ediv_add_ediv_emod_add (x y : Int) {m : Int} (h : 0 < m) : x / m + (x % m + y) / m = (x + y) / m := by
  have hx := Int.mul_ediv_add_emod x m
  calc x / m + (x % m + y) / m = (x % m + y + m * (x / m)) / m := by
        rw [Int.add_mul_ediv_left _ _ (by omega), Int.add_comm]
    _ = (x + y) / m := by congr 1; omega

/-! ### One tick -/

/-- What TICK leaves before its STAT write (R232 to R236). -/
def State.ticked (s : State) : State :=
  { s with mcnt := sampleCyc s.cfg s.issue.cyc, clock := tickAdjust s.cfg s.clock s.port.arg0.toInt }

theorem exec_tick (s : State) : exec .tick s = .next s.ticked.complete := rfl

/-- PHASE keeps the remainder of the accumulator by HZ; it fits, as HZ is at most 10^9 (R235). -/
theorem tickAdjust_phase (c : Params) (k : Clock) (residualUs : Int) (hlow : 1 ≤ c.hz) (hhigh : c.hz ≤ 1000000000) :
    (tickAdjust c k residualUs).phase.toInt = (k.phase + k.adj).toInt % (c.hz * 4294967296) := by
  rw [tickAdjust_eq]
  dsimp only
  rw [tickRemainder_eq]
  generalize (k.phase + k.adj).toInt = acc
  have hnonneg := Int.emod_nonneg acc (show (c.hz * 4294967296 : Int) ≠ 0 by omega)
  have hlt := Int.emod_lt_of_pos acc (show (0 : Int) < c.hz * 4294967296 by omega)
  exact wrap64_toInt _ (by omega) (by omega)

/-- Settles O35: the carry and the remainder of the accumulator by HZ; a command that changes no bank keeps the rest. -/
theorem tickResult : Obligations.TickResult := by
  intro s hs hlow hhigh hcw
  refine ⟨rfl, _, exec_tick s, statIs_finish (s := s) _ rfl rfl hs, sampleCyc_toNat _ _ hcw,
    tickAdjust_eq s.cfg s.clock _, ?_, rfl, rfl, rfl, bankFrame_finish _ rfl rfl rfl rfl rfl ⟨rfl, rfl⟩⟩
  exact (congrArg (· / 4294967296) (tickAdjust_phase s.cfg s.clock _ hlow hhigh)).trans (tickRemainder_ediv _ _)

/-! ### Many ticks -/

/-- P0 + n * ADJ: what n ticks accumulate before any carry (R234). -/
def State.phaseAfter (s : State) (n : Nat) : Int := s.clock.phase.toInt + n * s.clock.adj.toInt

/-- The state t has the time of s and n ticks more, carried whole into NSEC with the remainder in PHASE, and keeps all
that the next tick reads (R234 to R237). -/
structure TickedBy (s : State) (n : Nat) (t : State) : Prop where
  cfg : t.cfg = s.cfg
  residual : t.port.arg0 = s.port.arg0
  adj : t.clock.adj = s.clock.adj
  sec : t.clock.sec = s.clock.sec
  phase : t.clock.phase.toInt = s.phaseAfter n % (s.cfg.hz * 4294967296)
  nsec : t.clock.nsec = wrap32 (s.clock.nsec.toInt + s.phaseAfter n / (s.cfg.hz * 4294967296))

theorem State.phaseAfter_succ (s : State) (n : Nat) :
    s.phaseAfter (n + 1) = s.phaseAfter n + s.clock.adj.toInt := by
  simp only [State.phaseAfter, Nat.cast_succ]
  ring

theorem State.arg0_finish (s : State) (f : CmdFlags) : (s.finish f).port.arg0 = s.port.arg0 :=
  State.cpu_modifyCpu_proj (fun u => u.port.arg0) s _ _ _ fun _ => rfl

theorem tickedBy_zero {s : State} (hlow : 0 ≤ s.clock.phase.toInt)
    (hhigh : s.clock.phase.toInt < s.cfg.hz * 4294967296) : TickedBy s 0 s := by
  have hzero : s.phaseAfter 0 = s.clock.phase.toInt := by simp [State.phaseAfter]
  refine ⟨rfl, rfl, rfl, rfl, ?_, ?_⟩
  · rw [hzero, Int.emod_eq_of_lt hlow hhigh]
  · rw [hzero, Int.ediv_eq_zero_of_lt hlow hhigh, Int.add_zero, wrap32_of_toInt]

/-- With PHASE in its range and ADJ small enough the accumulator does not wrap (R234). -/
theorem accumulator_toInt {phase adj : Fx} {m : Int} (hlow : 0 ≤ phase.toInt) (hhigh : phase.toInt < m)
    (hadj : adj.toInt + m ≤ 9223372036854775808) : (phase + adj).toInt = phase.toInt + adj.toInt := by
  have hb := toInt64_bounds adj
  change (fxAdd phase adj).toInt = _
  rw [fxAdd_eq, wrap64_toInt _ (by omega) (by omega)]

theorem TickedBy.succ {s t : State} {n : Nat} (h : TickedBy s n t) (hlow : 1 ≤ s.cfg.hz)
    (hhigh : s.cfg.hz ≤ 1000000000) (hresidual : s.port.arg0 = 0#32)
    (hadj : s.clock.adj.toInt + s.cfg.hz * 4294967296 ≤ 9223372036854775808) :
    TickedBy s (n + 1) t.ticked.complete := by
  have hm : (0 : Int) < s.cfg.hz * 4294967296 := by omega
  have hacc : (t.clock.phase + t.clock.adj).toInt =
      s.phaseAfter n % (s.cfg.hz * 4294967296) + s.clock.adj.toInt := by
    rw [← h.phase, ← h.adj]
    refine accumulator_toInt (m := s.cfg.hz * 4294967296) ?_ ?_ (h.adj ▸ hadj) <;> rw [h.phase]
    · exact Int.emod_nonneg _ hm.ne'
    · exact Int.emod_lt_of_pos _ hm
  refine ⟨h.cfg, (State.arg0_finish t.ticked _).trans h.residual, h.adj, h.sec, ?_, ?_⟩
  · refine (tickAdjust_phase t.cfg t.clock _ (h.cfg ▸ hlow) (h.cfg ▸ hhigh)).trans ?_
    rw [hacc, h.cfg, Int.emod_add_emod, s.phaseAfter_succ]
  · refine (congrArg Clock.nsec (tickAdjust_eq t.cfg t.clock _)).trans ?_
    dsimp only
    rw [h.residual, hresidual, BitVec.toInt_zero, Int.mul_zero, Int.add_zero, hacc, h.cfg, tickQuotient_eq,
      wrap32_add, wrap32_of_toInt, h.nsec, ← wrap32_add, Int.add_assoc, ediv_add_ediv_emod_add _ _ hm,
      s.phaseAfter_succ]

/-- Settles O36: by induction on the ticks. -/
theorem ticksLoseNoTime : Obligations.TicksLoseNoTime := by
  intro s n _ hlow hhigh hresidual hphase hphase' hadj
  have hticks : ∃ t, repeatExec .tick n s = .next t ∧ TickedBy s n t := by
    induction n with
    | zero => exact ⟨s, rfl, tickedBy_zero hphase hphase'⟩
    | succ n ih =>
      obtain ⟨t, hrun, ht⟩ := ih
      exact ⟨_, by rw [repeatExec, hrun]; rfl, ht.succ hlow hhigh hresidual hadj⟩
  obtain ⟨t, hrun, ht⟩ := hticks
  refine ⟨t, hrun, ?_, ht.phase, ht.adj, ht.sec⟩
  rw [tickQuotient_eq]
  exact ht.nsec

/-! ### The normalisation of SECOVF -/

theorem wrap64_toInt_add_one (v : BitVec 64) : wrap64 (v.toInt + 1) = v + 1#64 := by
  rw [wrap64_add, wrap64_of_toInt]
  rfl

theorem wrap64_toInt_sub_one (v : BitVec 64) : wrap64 (v.toInt - 1) = v - 1#64 := by
  rw [wrap64_sub, wrap64_of_toInt]
  rfl

/-- One second at most moves from NSEC to SEC (R240). -/
theorem normaliseSecond_eq (k : Clock) :
    normaliseSecond k =
      { k with
        sec := if 1000000000 ≤ k.nsec.toInt then k.sec + 1#64 else k.sec
        nsec := if 1000000000 ≤ k.nsec.toInt then k.nsec - 1000000000#32 else k.nsec } := by
  have hless : wrap32 (k.nsec.toInt - 1000000000) = k.nsec - 1000000000#32 := by
    rw [Int.sub_eq_add_neg, wrap32_add, wrap32_of_toInt, BitVec.sub_eq_add_neg]
    rfl
  simp only [normaliseSecond, secPending, decide_eq_true_eq]
  split_ifs
  · rw [hless, wrap64_toInt_add_one]
  · rfl

/-! ### The rows of the leap table -/

section
variable {k : Clock}

theorem leapStep_of_ins (h : k.state = 1#3) :
    leapStep k = if k.sec.toInt % 86400 = 0 then { k with sec := k.sec - 1#64, state := 3#3 } else k := by
  simp only [leapStep, h, wrap64_toInt_sub_one]

theorem leapStep_of_del (h : k.state = 2#3) :
    leapStep k =
      if (k.sec.toInt + 1) % 86400 = 0 then { k with sec := k.sec + 1#64, tai := k.tai - 1#32, state := 4#3 }
      else k := by
  simp only [leapStep, h, wrap64_toInt_add_one, wrap32_toInt_sub_one]

theorem leapStep_of_oop (h : k.state = 3#3) : leapStep k = { k with tai := k.tai + 1#32, state := 4#3 } := by
  simp only [leapStep, h, wrap32_toInt_add_one]

theorem leapStep_of_wait (h : k.state = 4#3) :
    leapStep k = { k with state := if !k.has .ins && !k.has .del then 0#3 else 4#3 } := by
  simp only [leapStep, h]
  split_ifs
  · rfl
  · rw [← h]

/-- OK, and the codes 5 to 7, which act as OK. -/
theorem leapStep_of_ok (h : k.state = 0#3 ∨ 5 ≤ k.state.toNat) :
    leapStep k = { k with state := if k.has .ins then 1#3 else if k.has .del then 2#3 else 0#3 } := by
  unfold leapStep
  split
  case h_1 hst | h_2 hst | h_3 hst | h_4 hst => simp [hst] at h
  case h_5 => rfl

end

theorem State.rolledClock_sec (s : State) :
    s.rolledClock.sec = if 1000000000 ≤ s.clock.nsec.toInt then s.clock.sec + 1#64 else s.clock.sec := by
  rw [s.rolledClock_kept.1, normaliseSecond_eq]

theorem State.rolledClock_status (s : State) : s.rolledClock.status = s.clock.status := by
  rw [State.rolledClock, growMaxerror, normaliseSecond_frame]

theorem exec_secovf_nsec {s t : State} (h : exec .secovf s = .next t) :
    t.clock.nsec = if 1000000000 ≤ s.clock.nsec.toInt then s.clock.nsec - 1000000000#32 else s.clock.nsec := by
  cases h
  rw [State.complete_clock, expireSignal_frame]
  change (leapStep (growMaxerror s.cfg (normaliseSecond s.clock))).nsec = _
  rw [beforeSpend_frame, normaliseSecond_eq]

/-- Settles O37: row by row of R242, on the clock the normalisation left. -/
theorem secovfNormalisesAndLeaps : Obligations.SecovfNormalisesAndLeaps := by
  intro s _
  obtain ⟨t, hexec⟩ := exec_next .secovf s
  obtain ⟨hsec, hstate, htai⟩ := exec_secovf_leap hexec
  obtain ⟨-, hstate', htai'⟩ := s.rolledClock_kept
  refine ⟨t, hexec, exec_secovf_nsec hexec, ?_⟩
  rw [hsec, hstate, htai, ← s.rolledClock_sec, ← s.rolledClock_status, ← hstate', ← htai']
  generalize s.rolledClock = k
  refine ⟨fun hins => ?_, fun hdel => ?_, fun hoop => ?_, fun hwait => ?_, fun hok => ?_⟩
  · rw [leapStep_of_ins hins]
    refine ⟨fun hday => ?_, fun hday => ?_⟩
    · rw [if_pos hday]
      exact ⟨rfl, rfl, rfl⟩
    · rw [if_neg hday]
      exact ⟨rfl, hins, rfl⟩
  · rw [leapStep_of_del hdel]
    refine ⟨fun hday => ?_, fun hday => ?_⟩
    · rw [if_pos hday]
      exact ⟨rfl, rfl, rfl⟩
    · rw [if_neg hday]
      exact ⟨rfl, hdel, rfl⟩
  · rw [leapStep_of_oop hoop]
    exact ⟨rfl, rfl, rfl⟩
  · rw [leapStep_of_wait hwait]
    exact ⟨rfl, rfl, rfl⟩
  · rw [leapStep_of_ok hok]
    exact ⟨rfl, rfl, rfl⟩

/-! ### The rest of SECOVF -/

/-- The countdown is a natural subtraction (R248). -/
theorem countDown_eq (v : Pps) : countDown v = { v with valid := BitVec.ofNat 32 (v.valid.toNat - 1) } := by
  have hv := v.valid.isLt
  unfold countDown
  split_ifs with h
  · have hless : v.valid - 1#32 = BitVec.ofNat 32 (v.valid.toNat - 1) := by bv_omega
    rw [hless]
  · have hkept : BitVec.ofNat 32 (v.valid.toNat - 1) = v.valid := by bv_omega
    rw [hkept]

theorem countDown_valid_eq_zero (v : Pps) : (countDown v).valid = 0#32 ↔ v.valid.toNat - 1 = 0 := by
  rw [countDown_eq]
  dsimp only
  bv_omega

/-- At zero PPSSIGNAL, bit 8 of STATUS, is cleared (R248). -/
theorem expireSignal_countDown (k : Clock) (v : Pps) :
    expireSignal k (countDown v) =
      { k with status := if v.valid.toNat - 1 = 0 then k.status &&& 0xFEFF#16 else k.status } := by
  simp only [expireSignal, beq_iff_eq, countDown_valid_eq_zero]
  split_ifs <;> rfl

/-- Settles O38: the spending step in integers, then the countdown; the shift is below 64 under the invariant. -/
theorem secovfSpendsAndCounts : Obligations.SecovfSpendsAndCounts := by
  intro s hs hinv
  have hshift := spendShift_lt hinv.cfg hinv.clock hinv.pps
  refine ⟨_, rfl, statIs_finish (s := s) _ rfl rfl hs, ?_, countDown_eq s.pps, rfl, rfl, rfl,
    bankFrame_finish _ rfl rfl rfl rfl rfl ⟨rfl, rfl⟩⟩
  rw [State.complete_clock, expireSignal_countDown, secondClock_eq _ _ _ hshift]
  rfl

/-! ### SETT -/

/-- What a permitted SETT leaves before its STAT write (R252). -/
def State.clockSet (s : State) : State :=
  { s with
    clock :=
      { s.clock with sec := s.port.argPair, nsec := wrap32 (clampInt s.port.arg2.toInt 0 (nanosecond - 1)) } }

theorem exec_sett_permitted {s : State} (h : s.issue.priv = true) : exec .sett s = .next s.clockSet.complete :=
  if_neg (by simp [h])

theorem exec_sett_denied {s : State} (h : s.issue.priv = false) : exec .sett s = .next s.raiseDenied :=
  if_pos (by simp [h])

theorem State.clockSet_nsec (s : State) :
    s.clockSet.clock.nsec.toInt = max 0 (min s.port.arg2.toInt 999999999) := by
  change (wrap32 (clampInt s.port.arg2.toInt 0 999999999)).toInt = _
  rw [clampInt_eq _ _ _ (by decide), wrap32_toInt _ (by omega) (by omega)]

/-- Settles O40: by the privilege of the caller. -/
theorem settSetsClock : Obligations.SettSetsClock := by
  intro s hs
  refine ⟨rfl, ?_⟩
  cases hpriv : s.issue.priv with
  | true =>
    exact ⟨_, exec_sett_permitted hpriv, fun _ => ⟨rfl, s.clockSet_nsec, rfl, rfl, rfl, rfl,
      bankFrame_finish _ rfl rfl rfl rfl rfl ⟨rfl, rfl⟩, statIs_finish (s := s) _ rfl rfl hs⟩, nofun⟩
  | false =>
    exact ⟨_, exec_sett_denied hpriv, nofun, fun _ => ⟨State.frame_finish s _, State.stat_finish s _ hs⟩⟩

end Sys2Proof.Machine
end

section
/-! PROOFS. The estimator (43_pll_fll.md): the three ways through HardUpdate, the signs and the bounds of the two terms
it adds to FREQ, and HUPD. -/

namespace Sys2Proof.Machine

/-! ### The three ways through HardUpdate -/

/-- The load of a clamped sample in integers (R274, R275). -/
theorem loadOffset_clampSample (k : Clock) (x : Int) :
    loadOffset k (clampSample x) =
      { k with
        offset := if k.has .ppstime && k.has .ppssignal then k.offset else wrap64 (clampSample x * 4294967296) } := by
  rw [loadOffset, fxLoadInt_eq]
  split_ifs <;> rfl

theorem hardUpdate_of_disabled {k : Clock} (h : k.has .pll = false) (c : Params) (x : Int) : hardUpdate c k x = k := by
  simp [hardUpdate, h]

/-- With the frequency owned by the PPS path only the load and the reference time are left (R276). -/
theorem hardUpdate_of_ppsOwned {k : Clock} (h : k.has .pll = true) (howned : (k.has .ppsfreq && k.has .ppssignal) = true)
    (c : Params) (x : Int) : hardUpdate c k x = { loadOffset k (clampSample x) with reftime := k.sec } := by
  simp only [hardUpdate, h, howned, Bool.not_true, Bool.false_eq_true, if_false, if_true]

theorem hardUpdate_of_steered {k : Clock} (h : k.has .pll = true) (howned : (k.has .ppsfreq && k.has .ppssignal) = false)
    (c : Params) (x : Int) :
    hardUpdate c k x =
      { loadOffset k (clampSample x) with
        reftime := k.sec
        freq := fxClampMag (updatedFreq c k (clampSample x)) maxFreq
        status := statusPut k.status .mode (fllEligible c k (updateElapsed k)) } := by
  simp only [hardUpdate, h, howned, Bool.not_true, Bool.false_eq_true, if_false]

/-- FREQ is kept, or takes the clamped sum (R273, R276, R283). -/
theorem hardUpdate_freq_of_sample (c : Params) (k : Clock) (x : Int) :
    (hardUpdate c k x).freq = k.freq ∨
      (hardUpdate c k x).freq = fxClampMag (updatedFreq c k (clampSample x)) maxFreq := by
  cases hpll : k.has .pll with
  | false => exact .inl (congrArg Clock.freq (hardUpdate_of_disabled hpll c x))
  | true =>
    cases howned : k.has .ppsfreq && k.has .ppssignal with
    | true =>
      rw [hardUpdate_of_ppsOwned hpll howned]
      exact .inl (loadOffset_freq k _)
    | false =>
      rw [hardUpdate_of_steered hpll howned]
      exact .inr rfl

/-- A sample is loaded unless the PPS path owns the offset, whoever owns the frequency (R275). -/
theorem hardUpdate_offset_of_loaded {k : Clock} (h : k.has .pll = true)
    (howned : (k.has .ppstime && k.has .ppssignal) = false) (c : Params) (x : Int) :
    (hardUpdate c k x).offset = wrap64 (clampSample x * 4294967296) := by
  have hload : (loadOffset k (clampSample x)).offset = wrap64 (clampSample x * 4294967296) := by
    rw [loadOffset_clampSample, howned]
    rfl
  cases hfreq : k.has .ppsfreq && k.has .ppssignal with
  | true => rw [hardUpdate_of_ppsOwned h hfreq, hload]
  | false => rw [hardUpdate_of_steered h hfreq, hload]

theorem statusPut_mode (w : BitVec 16) (v : Bool) :
    statusPut w .mode v = if v then w ||| 0x4000#16 else w &&& 0xBFFF#16 := rfl

/-- The condition on the FLL term in integers (R281). -/
theorem fllEligible_iff (c : Params) (k : Clock) (e : Nat) :
    fllEligible c k e = true ↔ (c.minsec : Int) ≤ e ∧ (k.has .fll = true ∨ (c.maxsec : Int) < e) := by
  simp [fllEligible]

/-! ### HUPD -/

/-- What HUPD leaves before its STAT write (R271). -/
def State.estimated (s : State) : State :=
  { s with clock := hardUpdate s.cfg s.clock s.port.argPair.toInt }

theorem exec_hupd (s : State) : exec .hupd s = .next s.estimated.complete := rfl

theorem bankFrame_estimated (s : State) : BankFrame s s.estimated.complete [0x01] :=
  bankFrame_finish _ rfl rfl rfl rfl rfl ⟨rfl, rfl⟩

theorem statIs_estimated {s : State} (h : Issued s) : StatIs s.estimated.complete flagsNone :=
  statIs_finish (s := s) _ rfl rfl h

/-- Settles O42: by the first two ways through HardUpdate. -/
theorem hupdDisabledOrPpsOwned : Obligations.HupdDisabledOrPpsOwned := by
  intro s hs k b m
  refine ⟨_, exec_hupd s, statIs_estimated hs, bankFrame_estimated s, rfl, rfl, rfl, rfl,
    fun hpll => hardUpdate_of_disabled hpll _ _, fun hpll hfreq hsignal => ?_⟩
  have howned : (k.has .ppsfreq && k.has .ppssignal) = true := Bool.and_eq_true_iff.2 ⟨hfreq, hsignal⟩
  have htime : (k.has .ppstime && k.has .ppssignal) = b 2 := by
    change (b 2 && b 8) = b 2
    rw [hsignal, Bool.and_true]
  refine (hardUpdate_of_ppsOwned hpll howned _ _).trans ?_
  rw [loadOffset_clampSample, clampSample_eq, htime]
  rfl

/-- Settles O41: the third way through HardUpdate, with the terms in integers. -/
theorem hupdUpdatesEstimate : Obligations.HupdUpdatesEstimate := by
  intro s hs hcfg htc k b hpll howned m e f fll g nf
  obtain ⟨-, -, -, -, -, -, -, hpllGain, hfllGain, hminsec, -⟩ := hcfg
  have hshift : 2 * (s.cfg.pllGain + k.tc) < 64 := by
    change k.tc ≤ s.cfg.maxtc at htc
    omega
  have hclock : s.estimated.clock = _ := hardUpdate_of_steered hpll howned s.cfg _
  have hm : clampSample s.port.argPair.toInt = m := clampSample_eq _
  have he : (updateElapsed k : Int) = e := updateElapsed_eq k
  have hfll : fllEligible s.cfg k (updateElapsed k) = true ↔ fll := by
    rw [fllEligible_iff, he]
    rfl
  have hnf : updatedFreq s.cfg k (clampSample s.port.argPair.toInt) = nf := by
    rw [updatedFreq_eq _ _ _ hshift (by omega) hminsec, hm, he, if_congr hfll rfl rfl]
    rfl
  refine ⟨_, exec_hupd s, statIs_estimated hs, ?_, ?_, rfl, rfl, rfl, rfl, bankFrame_estimated s⟩
  · rw [State.complete_clock, hclock, loadOffset_clampSample, statusPut_mode, if_congr hfll rfl rfl, hm]
    rfl
  · rw [State.complete_clock, hclock, hnf]
    exact fxClampMag_toInt nf 500000 (by decide) (by decide)

/-! ### What an update adds to FREQ -/

/-- A value in its range is its own clamp. -/
theorem fxClampMag_of_fxWithin {v : Fx} {m : Int} (h : FxWithin v m) (h0 : 0 ≤ m) (hm : m < 2147483648) :
    fxClampMag v m = v := by
  obtain ⟨hlow, hhigh⟩ := h
  refine BitVec.eq_of_toInt_eq ?_
  rw [fxClampMag_toInt v m h0 hm]
  dsimp only [fxOne] at hlow hhigh
  omega

/-- The integer an update adds to FREQ before the wrap and the clamp: the PLL term and, where eligible, the FLL term
(R279, R281). -/
def freqStep (c : Params) (k : Clock) (m : Int) : Int :=
  m * 4294967296 / 2 ^ (2 * (c.pllGain + k.tc)) * updateElapsed k +
    if fllEligible c k (updateElapsed k) then
      (m * 16).tdiv (updateElapsed k) * 4294967296 / 2 ^ (c.fllGain + 4)
    else 0

/-- Under the invariant the parameters and TC meet what the two terms need (R13, R280). -/
theorem Inv.updatedFreq_eq {s : State} (h : Inv s) (x : Int) :
    updatedFreq s.cfg s.clock (clampSample x) =
      wrap64 (s.clock.freq.toInt + freqStep s.cfg s.clock (clampSample x)) := by
  obtain ⟨-, -, -, -, -, -, -, hpllGain, hfllGain, hminsec, -⟩ := h.cfg
  have htc := h.clock.tc
  rw [Machine.updatedFreq_eq _ _ _ (by omega) (by omega) hminsec, Int.add_assoc]
  rfl

theorem freqStep_zero (c : Params) (k : Clock) : freqStep c k 0 = 0 := by
  simp [freqStep]

theorem clampSample_zero : clampSample 0 = 0 := by decide

/-- Settles O43: nothing is added to FREQ, and FREQ under the invariant is its own clamp. -/
theorem zeroSampleKeepsFrequency : Obligations.ZeroSampleKeepsFrequency := by
  intro s hs harg0 harg1
  have hsample : s.port.argPair.toInt = 0 := by
    rw [Port.argPair, harg0, harg1]
    decide
  refine ⟨_, exec_hupd s, ?_, fun hpll howned => ?_⟩
  · change (hardUpdate s.cfg s.clock s.port.argPair.toInt).freq = _
    refine (hardUpdate_freq_of_sample _ _ _).elim id fun hfreq => ?_
    rw [hfreq, hs.updatedFreq_eq, hsample, clampSample_zero, freqStep_zero, Int.add_zero, wrap64_of_toInt,
      fxClampMag_of_fxWithin hs.clock.freq (by decide) (by decide)]
  · refine (hardUpdate_offset_of_loaded hpll howned _ _).trans ?_
    rw [hsample, clampSample_zero]
    rfl

/-! ### The sign of the step -/

/-- Both terms have the sign of the sample, or are 0 (R289). -/
theorem freqStep_nonneg (c : Params) (k : Clock) {m : Int} (h : 0 ≤ m) : 0 ≤ freqStep c k m := by
  have hpll : 0 ≤ m * 4294967296 / 2 ^ (2 * (c.pllGain + k.tc)) := Int.ediv_nonneg (by omega) (by positivity)
  have hquot : 0 ≤ (m * 16).tdiv (updateElapsed k) := Int.tdiv_nonneg (by omega) (Int.natCast_nonneg _)
  have hfll : 0 ≤ (m * 16).tdiv (updateElapsed k) * 4294967296 / 2 ^ (c.fllGain + 4) :=
    Int.ediv_nonneg (by omega) (by positivity)
  refine Int.add_nonneg (Int.mul_nonneg hpll (Int.natCast_nonneg _)) ?_
  split_ifs
  · exact hfll
  · exact le_rfl

theorem freqStep_nonpos (c : Params) (k : Clock) {m : Int} (h : m ≤ 0) : freqStep c k m ≤ 0 := by
  have hpll : m * 4294967296 / 2 ^ (2 * (c.pllGain + k.tc)) ≤ 0 :=
    Int.ediv_nonpos_of_nonpos_of_neg (by omega) (by positivity)
  have hquot : 0 ≤ (-(m * 16)).tdiv (updateElapsed k) := Int.tdiv_nonneg (by omega) (Int.natCast_nonneg _)
  rw [Int.neg_tdiv] at hquot
  have hfll : (m * 16).tdiv (updateElapsed k) * 4294967296 / 2 ^ (c.fllGain + 4) ≤ 0 :=
    Int.ediv_nonpos_of_nonpos_of_neg (by omega) (by positivity)
  refine Int.add_nonpos (Int.mul_nonpos_of_nonpos_of_nonneg hpll (Int.natCast_nonneg _)) ?_
  split_ifs
  · exact hfll
  · exact le_rfl

/-! ### The bound on the step -/

/-- The product of R279 where the sample and the elapsed time are short enough; the floor costs at most 1 a second. -/
theorem scaledSample_bounds {m : Int} {e n : Nat} (h : (m.natAbs : Int) * e ≤ 2000000000 * 2 ^ n) :
    -(2000000000 * 4294967296) - e ≤ m * 4294967296 / 2 ^ n * e ∧
      m * 4294967296 / 2 ^ n * e ≤ 2000000000 * 4294967296 := by
  have hd : (0 : Int) < 2 ^ n := by positivity
  have hlow := Int.lt_ediv_add_one_mul_self (m * 4294967296) hd
  have hhigh := Int.ediv_mul_le (m * 4294967296) hd.ne'
  have hme : m * e ≤ 2000000000 * 2 ^ n := (Int.mul_le_mul_of_nonneg_right (by omega) (by omega)).trans h
  have hme' : -m * e ≤ 2000000000 * 2 ^ n := (Int.mul_le_mul_of_nonneg_right (by omega) (by omega)).trans h
  generalize m * 4294967296 / 2 ^ n = q at hlow hhigh ⊢
  generalize (2 : Int) ^ n = d at hd hlow hhigh hme hme' ⊢
  constructor
  · refine le_of_mul_le_mul_right ?_ hd
    nlinarith [Int.mul_le_mul_of_nonneg_right hlow.le (show (0 : Int) ≤ e by omega)]
  · refine le_of_mul_le_mul_right ?_ hd
    nlinarith [Int.mul_le_mul_of_nonneg_right hhigh (show (0 : Int) ≤ e by omega)]

/-- The FLL term is at most 125 000 000 ns/s: the shift is by 4 at least, and the quotient is at most 2 000 000 000 (R281). -/
theorem fllStep_bounds (c : Params) (x : Int) {e : Nat} (h : 4 ≤ e) :
    -(125000000 * 4294967296) ≤ (clampSample x * 16).tdiv e * 4294967296 / 2 ^ (c.fllGain + 4) ∧
      (clampSample x * 16).tdiv e * 4294967296 / 2 ^ (c.fllGain + 4) ≤ 125000000 * 4294967296 := by
  have hd : (16 : Int) ≤ 2 ^ (c.fllGain + 4) :=
    calc (16 : Int) = 2 ^ 4 := rfl
      _ ≤ 2 ^ (c.fllGain + 4) := pow_le_pow_right₀ (by decide) (Nat.le_add_left 4 _)
  obtain ⟨hlow, hhigh⟩ := fllQuotient_bounds x e h
  constructor
  · exact (Int.le_ediv_iff_mul_le (by omega)).2 (by omega)
  · exact Int.ediv_le_of_le_mul (by omega) (by omega)

/-- Under the premises of O44 the step leaves room in 64 bits for FREQ, which is below 2^52 (R280, R289). -/
theorem freqStep_bounds {c : Params} {k : Clock} {x : Int} (hminsec : 4 ≤ c.minsec)
    (hprod : ((clampSample x).natAbs : Int) * updateElapsed k ≤ 2000000000 * 2 ^ (2 * (c.pllGain + k.tc)))
    (helapsed : updateElapsed k ≤ 4503599627370496) :
    -9200000000000000000 ≤ freqStep c k (clampSample x) ∧ freqStep c k (clampSample x) ≤ 9200000000000000000 := by
  have hpll := scaledSample_bounds hprod
  unfold freqStep
  split_ifs with hfll
  · have hmin : 4 ≤ updateElapsed k := by
      have hle := ((fllEligible_iff c k _).1 hfll).1
      omega
    have hbounds := fllStep_bounds c x hmin
    omega
  · omega

/-- A step that does not make the sum wrap moves FREQ its own way: under the invariant FREQ is within the clamp (R283). -/
theorem Inv.estimated_freq_follows {s : State} {d : Int} (h : Inv s)
    (hd : freqStep s.cfg s.clock (clampSample s.port.argPair.toInt) = d)
    (hlow : -9200000000000000000 ≤ d) (hhigh : d ≤ 9200000000000000000) :
    (0 ≤ d → s.clock.freq.toInt ≤ s.estimated.clock.freq.toInt) ∧
      (d ≤ 0 → s.estimated.clock.freq.toInt ≤ s.clock.freq.toInt) := by
  obtain ⟨hfreqLow, hfreqHigh⟩ := h.clock.freq
  dsimp only [fxOne, maxFreq] at hfreqLow hfreqHigh
  rcases hardUpdate_freq_of_sample s.cfg s.clock s.port.argPair.toInt with hfreq | hfreq <;>
    rw [State.estimated, hfreq]
  · exact ⟨fun _ => le_rfl, fun _ => le_rfl⟩
  · rw [fxClampMag_toInt _ _ (by decide) (by decide), h.updatedFreq_eq, hd, wrap64_toInt _ (by omega) (by omega)]
    dsimp only [maxFreq]
    omega

/-- Settles O44: the step has the sign of the sample and the sum fits 64 bits. -/
theorem frequencyFollowsSampleSign : Obligations.FrequencyFollowsSampleSign := by
  intro s hs sample m e hprod helapsed
  have hm : clampSample sample = m := clampSample_eq _
  have he : (updateElapsed s.clock : Int) ≤ e := by
    rw [updateElapsed_eq]
    split_ifs
    · exact le_max_right _ _
    · exact le_rfl
  have hprod' : ((clampSample sample).natAbs : Int) * updateElapsed s.clock ≤
      2000000000 * 2 ^ (2 * (s.cfg.pllGain + s.clock.tc)) := by
    rw [hm]
    exact (Int.mul_le_mul_of_nonneg_left he (Int.natCast_nonneg _)).trans hprod
  obtain ⟨-, -, -, -, -, -, -, -, -, hminsec, -⟩ := hs.cfg
  obtain ⟨hlow, hhigh⟩ := freqStep_bounds hminsec hprod' (by omega)
  obtain ⟨hup, hdown⟩ := hs.estimated_freq_follows (congrArg (freqStep s.cfg s.clock) hm) (hm ▸ hlow) (hm ▸ hhigh)
  exact ⟨_, exec_hupd s, fun hpos => hup (freqStep_nonneg _ _ (by omega)),
    fun hneg => hdown (freqStep_nonpos _ _ (by omega))⟩

end Sys2Proof.Machine
end

section
/-! PROOFS. The PPS discipline (44_pps.md): the median window and the edge, and HPPS by its ends, which are a duplicate,
a gated edge, an open interval, and an interval rejected or accepted. -/

namespace Sys2Proof.Machine

/-! ### The window and the edge -/

theorem median3_of_sorted {a b c : Int} (hab : a ≤ b) (hbc : b ≤ c) : median3 a b c = b := by
  rw [median3, min_eq_left hab, max_eq_right hab, min_eq_left hbc, max_eq_right hab]

theorem span3_of_sorted {a b c : Int} (hab : a ≤ b) (hbc : b ≤ c) : span3 a b c = c - a := by
  rw [span3, min_eq_left hab, max_eq_right hab, max_eq_right hbc, min_eq_left (hab.trans hbc)]

theorem median3_swap_left (a b c : Int) : median3 a b c = median3 b a c := by
  rw [median3, median3, min_comm a b, max_comm a b]

/-- By distributivity: both sides are the join of the three pairwise meets. -/
theorem median3_swap_right (a b c : Int) : median3 a b c = median3 a c b := by
  rw [median3, median3, min_max_distrib_right, min_max_distrib_right, min_comm c b, ← max_assoc, ← max_assoc,
    max_comm (min a b)]

theorem span3_swap_left (a b c : Int) : span3 a b c = span3 b a c := by
  rw [span3, span3, max_comm a b, min_comm a b]

theorem span3_swap_right (a b c : Int) : span3 a b c = span3 a c b := by
  rw [span3, span3, max_right_comm, min_right_comm]

theorem span3_nonneg (a b c : Int) : 0 ≤ span3 a b c :=
  Int.sub_nonneg_of_le (((min_le_left _ _).trans min_le_max).trans (le_max_left _ _))

/-- Settles O45: by the order of the three, and the two exchanges that give every other. -/
theorem medianIsMiddle : Obligations.MedianIsMiddle := fun a b c =>
  ⟨fun hab hbc => ⟨median3_of_sorted hab hbc, span3_of_sorted hab hbc⟩,
    ⟨median3_swap_left a b c, median3_swap_right a b c⟩,
    ⟨span3_swap_left a b c, span3_swap_right a b c⟩, span3_nonneg a b c⟩

/-- The edge with its clamp and its next second in the words of the statements (R302). -/
theorem normaliseEdge_eq (sec : BitVec 64) (nsec : Int) :
    normaliseEdge sec nsec =
      if 500000000 ≤ max 0 (min nsec 999999999) then ⟨sec + 1#64, max 0 (min nsec 999999999) - 1000000000⟩
      else ⟨sec, max 0 (min nsec 999999999)⟩ := by
  have hclamp : clampInt nsec 0 (nanosecond - 1) = max 0 (min nsec 999999999) := clampInt_eq _ _ _ (by decide)
  rw [normaliseEdge, hclamp, wrap64_toInt_add_one]

/-- Settles O46: by the two sides of the half second. -/
theorem edgeIsNearestSecond : Obligations.EdgeIsNearestSecond := fun sec nsec =>
  ⟨fun hlow => (normaliseEdge_eq sec nsec).trans (if_neg (Int.not_le.2 hlow)),
    fun hhigh => (normaliseEdge_eq sec nsec).trans (if_pos hhigh)⟩

/-! ### The end of HPPS -/

/-- HPPS leaves the clock and the PPS filter state of its filter, and the STAT write (R301). -/
theorem exec_hpps_of_hppsFilter {s : State} {f : Filter} (hs : Issued s) (hf : s.hppsFilter = f) :
    ∃ t, exec .hpps s = .next t ∧ PpsFrame s t ∧ t.clock = f.clock ∧ t.pps = f.pps :=
  ⟨_, exec_hpps s, ppsFrame_hpps s hs, congrArg Filter.clock hf, congrArg Filter.pps hf⟩

/-! ### A duplicate and a gated edge -/

/-- Past the first edge the entry actions start no interval (R303, R304). -/
theorem ppsEntry_of_init {f : Filter} (h : f.pps.init = true) (c : Params) (e : Edge) (count : BitVec 32) :
    ppsEntry c f e count =
      { clock := { f.clock with status := (f.clock.status &&& 0xF3FF#16) ||| 0x0300#16 }
        pps := { f.pps with valid := BitVec.ofNat 32 c.ppsValidInit } } := by
  rw [ppsEntry, entryStatus_eq, ppsFirst, if_pos h]

/-- Settles O47: the filter is the entry actions', and the interval is running. -/
theorem hppsDropsDuplicate : Obligations.HppsDropsDuplicate := by
  intro s hs hinit hsec
  have hold : ¬s.edgeIsNew := by simp [State.edgeIsNew, hinit, hsec]
  exact exec_hpps_of_hppsFilter hs ((hppsFilter_duplicate s hold).trans (ppsEntry_of_init hinit _ _ _))

/-- The counter reference and the sum an edge is measured from: on the first edge its own count and 0 (R303). -/
theorem ppsStart_reference (s : State) :
    s.ppsStart.lastcount = (if s.pps.init then s.pps.lastcount else s.port.arg3) ∧
      s.ppsStart.fcount = if s.pps.init then s.pps.fcount else 0#64 := by
  unfold State.ppsStart
  split_ifs <;> exact ⟨rfl, rfl⟩

/-- Settles O48: the sum by whether the edge is the first, and the filter of an edge that is recorded and no more. -/
theorem hppsGatesEdge : Obligations.HppsGatesEdge := by
  intro s hs d d1 tick half d2 sum
  have hsum : s.ppsSum = sum := by
    obtain ⟨hcount, hfcount⟩ := ppsStart_reference s
    have hd : s.port.arg3.toInt - s.ppsStart.lastcount.toInt = d := by
      rw [hcount]
      dsimp only [d]
      split_ifs
      · rfl
      · exact Int.sub_self _
    have hbase : s.ppsStart.fcount.toInt = if s.pps.init then s.pps.fcount.toInt else 0 := by
      rw [hfcount, apply_ite BitVec.toInt]
      rfl
    rw [← ppsSum_eq, hd, hbase]
    rfl
  refine ⟨hsum, fun hnew hgated => ?_⟩
  obtain ⟨t, hexec, hframe, hclock, hpps⟩ := exec_hpps_of_hppsFilter hs (hppsFilter_gated s hnew hgated)
  refine ⟨t, hexec, hframe, hclock, ?_, fun hfits => ?_⟩
  · rw [hpps]
    rfl
  · rw [hpps, ← hsum]
    exact fitS64_toInt _ _ (hsum ▸ hfits)

/-! ### An edge that passed the gate -/

/-- What is said of a filtered edge rests on four fields, so that it outlives the end of the interval (R317 to R319). -/
theorem exec_hpps_of_filtered {s : State} {f : Filter} (hs : Issued s) (hf : s.hppsFilter = f)
    (hjitcnt : f.pps.jitcnt = s.hppsFiltered.pps.jitcnt) (hjitter : f.pps.jitter = s.hppsFiltered.pps.jitter)
    (hflag : f.clock.has .ppsjitter = s.hppsFiltered.clock.has .ppsjitter)
    (hoffset : f.clock.offset = s.hppsFiltered.clock.offset) :
    ∃ t, exec .hpps s = .next t ∧ PpsFrame s t ∧ PpsFiltered s t ∧ t.clock = f.clock ∧ t.pps = f.pps := by
  obtain ⟨t, hexec, hframe, hclock, hpps⟩ := exec_hpps_of_hppsFilter hs hf
  obtain ⟨hcounted, huncounted, hpopcorn⟩ := filtered_popcorn s
  obtain ⟨hloaded, hkept⟩ := filtered_offset s
  refine ⟨t, hexec, hframe, ?_, hclock, hpps⟩
  constructor
  case jitcnt => exact hpps ▸ hjitcnt ▸ ⟨hcounted, huncounted⟩
  case flag => exact hclock ▸ hflag ▸ hpopcorn
  case loaded => exact hclock ▸ hoffset ▸ hloaded
  case kept => exact hclock ▸ hoffset ▸ hkept
  case jitter => exact hpps ▸ hjitter ▸ filtered_jitter s

theorem filtered_intervalOpen_iff (s : State) :
    intervalOpen s.hppsFiltered.pps s.edge = true ↔ s.ppsElapsed < 2 ^ s.pps.shift := by
  obtain ⟨helapsed, hshift⟩ := filtered_interval s
  rw [intervalOpen, decide_eq_true_iff, helapsed, hshift]

theorem filtered_interval_ended {s : State} (h : 2 ^ s.pps.shift ≤ s.ppsElapsed) :
    intervalOpen s.hppsFiltered.pps s.edge = false := by
  rw [← Bool.not_eq_true, filtered_intervalOpen_iff]
  exact Int.not_lt.2 h

theorem filtered_intervalBad_iff {s : State} (h : FitsS64 s.ppsSum) :
    intervalBad s.hppsFiltered.pps s.edge = true ↔
      500000 * 2 ^ s.pps.shift < s.ppsSum ∨ s.ppsSum < -(500000 * 2 ^ s.pps.shift) ∨
        s.ppsElapsed ≠ 2 ^ s.pps.shift := by
  obtain ⟨helapsed, hshift⟩ := filtered_interval s
  simp only [intervalBad, filtered_fcount s h, helapsed, hshift, Bool.or_eq_true, decide_eq_true_eq, or_assoc]

/-- Settles O49: the filter of an edge inside the interval is the filtered one. -/
theorem hppsFiltersOpenInterval : Obligations.HppsFiltersOpenInterval := by
  intro s hs hnew hpass helapsed
  have hfilter : s.hppsFilter = s.hppsFiltered :=
    (hppsFilter_passed s hnew hpass).trans (closeInterval_open _ _ _ _ ((filtered_intervalOpen_iff s).2 helapsed))
  obtain ⟨t, hexec, hframe, hfiltered, hclock, hpps⟩ := exec_hpps_of_filtered hs hfilter rfl rfl rfl rfl
  refine ⟨t, hexec, hframe, hfiltered, ?_⟩
  rw [hclock, hpps]
  exact ⟨rfl, filtered_status s, rfl, filtered_fcount s⟩

/-! ### The end of an interval -/

/-- The filter once the interval has ended and a new one starts at the edge (R322). -/
def State.hppsRestarted (s : State) : Filter :=
  { s.hppsFiltered with pps := restartInterval s.hppsFiltered.pps s.edge }

theorem restarted_pps (s : State) :
    s.hppsRestarted.pps =
      { s.ppsRecorded with
        fcount := 0#64
        lastsec := s.edge.sec
        calcnt := s.pps.calcnt + 1#32
        jitcnt := s.hppsFiltered.pps.jitcnt
        jitter := s.hppsFiltered.pps.jitter } := by
  obtain ⟨-, -, -, -, -, -, -, -, hcalcnt, -⟩ := ppsStart_kept s
  rw [← hcalcnt]
  rfl

/-- What filtering and the restart leave of the registers that the end of an interval works from. -/
theorem restarted_kept (s : State) :
    s.hppsRestarted.pps.shift = s.pps.shift ∧ s.hppsRestarted.pps.shiftmax = s.pps.shiftmax ∧
      s.hppsRestarted.pps.freq = s.pps.freq ∧ s.hppsRestarted.pps.stabil = s.pps.stabil ∧
      s.hppsRestarted.pps.intcnt = s.pps.intcnt ∧ s.hppsRestarted.pps.errcnt = s.pps.errcnt ∧
      s.hppsRestarted.pps.stbcnt = s.pps.stbcnt := by
  obtain ⟨-, -, hshift, hshiftmax, -, hfreq, hstabil, hintcnt, -, herrcnt, hstbcnt, -⟩ := ppsStart_kept s
  exact ⟨hshift, hshiftmax, hfreq, hstabil, hintcnt, herrcnt, hstbcnt⟩

theorem or_and_mask (v x m : BitVec 16) : (v ||| x) &&& m = (v &&& m) ||| (x &&& m) := by
  ext i
  simp [Bool.and_or_distrib_right]

/-- STATUS, but for PPSJITTER, with the bits x set at the end of the interval. -/
theorem filtered_status_or (s : State) (x : BitVec 16) :
    (s.hppsFiltered.clock.status ||| x) &&& 0xFDFF#16 =
      (s.clock.status &&& 0xF1FF#16) ||| (0x0100#16 ||| (x &&& 0xFDFF#16)) := by
  rw [or_and_mask, filtered_status, BitVec.or_assoc]

theorem hppsFilter_rejected {s : State} (hnew : s.edgeIsNew) (hpass : s.edgePasses)
    (helapsed : 2 ^ s.pps.shift ≤ s.ppsElapsed) (hbad : intervalBad s.hppsFiltered.pps s.edge = true) :
    s.hppsFilter = rejectInterval s.hppsRestarted := by
  rw [hppsFilter_passed s hnew hpass, closeInterval_bad _ _ _ _ (filtered_interval_ended helapsed) hbad]
  rfl

/-- Settles O50: the restarted filter with PPSERROR and its count. -/
theorem hppsRejectsInterval : Obligations.HppsRejectsInterval := by
  intro s hs hnew hpass helapsed hfits hbad
  have hfilter := hppsFilter_rejected hnew hpass helapsed ((filtered_intervalBad_iff hfits).2 hbad)
  obtain ⟨t, hexec, hframe, hfiltered, hclock, hpps⟩ :=
    exec_hpps_of_filtered hs hfilter rfl rfl (Clock.has_put_ne _ _ _ _ (by decide)) rfl
  refine ⟨t, hexec, hframe, hfiltered, ?_⟩
  obtain ⟨-, -, -, -, -, herrcnt, -⟩ := restarted_kept s
  rw [hclock, hpps, rejectInterval, herrcnt, restarted_pps]
  exact ⟨rfl, filtered_status_or s 0x0800#16, rfl⟩

/-! ### An accepted interval -/

/-- The wander of the interval that ends at this edge, before its bound (R324, R325). -/
def State.ppsWander (s : State) : Fx := wanderOf s.hppsRestarted.pps (rawFreq s.hppsRestarted.pps s.ppsSum)

/-- The filter of an accepted interval (R324 to R330). -/
def State.hppsAccepted (s : State) : Filter :=
  acceptInterval s.cfg s.hppsRestarted s.ppsSum (ppsFree s.draws).stabil

theorem hppsFilter_accepted {s : State} (hnew : s.edgeIsNew) (hpass : s.edgePasses)
    (helapsed : s.ppsElapsed = 2 ^ s.pps.shift) (hfits : FitsS64 s.ppsSum)
    (hlow : -(500000 * 2 ^ s.pps.shift) ≤ s.ppsSum) (hhigh : s.ppsSum ≤ 500000 * 2 ^ s.pps.shift) :
    s.hppsFilter = s.hppsAccepted := by
  have hgood : intervalBad s.hppsFiltered.pps s.edge = false := by
    rw [← Bool.not_eq_true, filtered_intervalBad_iff hfits]
    omega
  rw [hppsFilter_passed s hnew hpass, closeInterval_good _ _ _ _ (filtered_interval_ended helapsed.ge) hgood,
    filtered_fcount s hfits]
  rfl

/-- A sum in bounds fits its register, since a shift is at most 15 (R323). -/
theorem fitsS64_of_bounds {z : Int} {n : Nat} (hn : n ≤ 15) (hlow : -(500000 * 2 ^ n) ≤ z)
    (hhigh : z ≤ 500000 * 2 ^ n) : FitsS64 z := by
  have hpow : (2 : Int) ^ n ≤ 2 ^ 15 := pow_le_pow_right₀ (by decide) hn
  rw [FitsS64]
  omega

/-- A sum in bounds averages to at most MAXFREQ, in timescale units (R323, R324). -/
theorem scaledSum_bounds {z : Int} {n : Nat} (hn : n ≤ 32) (hlow : -(500000 * 2 ^ n) ≤ z)
    (hhigh : z ≤ 500000 * 2 ^ n) :
    -(500000 * 4294967296) ≤ z * 2 ^ (32 - n) ∧ z * 2 ^ (32 - n) ≤ 500000 * 4294967296 := by
  have hpow : (2 : Int) ^ n * 2 ^ (32 - n) = 4294967296 := by
    rw [← pow_add, Nat.add_sub_cancel' hn]
    rfl
  have hscale : (0 : Int) ≤ 2 ^ (32 - n) := by positivity
  have hlow' := Int.mul_le_mul_of_nonneg_right hlow hscale
  have hhigh' := Int.mul_le_mul_of_nonneg_right hhigh hscale
  rw [Int.neg_mul, Int.mul_assoc, hpow] at hlow'
  rw [Int.mul_assoc, hpow] at hhigh'
  exact ⟨hlow', hhigh'⟩

/-- Recording, filtering and the restart keep the invariant (10_state.md R87). -/
theorem ppsInv_hppsRestarted {s : State} (h : Inv s) : PpsInv s.hppsRestarted.pps :=
  (((filterInv_hppsRecorded ⟨h.clock, h.pps⟩).filterPhase _).restartInterval s.edge).pps

/-- The wander in integers: the average less PPS_FREQ, which does not wrap (R324, R325). -/
theorem PpsInv.wander_toInt {v : Pps} (h : PpsInv v) {tot : Int} (hlow : -(500000 * 2 ^ v.shift) ≤ tot)
    (hhigh : tot ≤ 500000 * 2 ^ v.shift) :
    (wanderOf v (rawFreq v tot)).toInt = tot * 2 ^ (32 - v.shift) - v.freq.toInt ∧
      -(1000000 * 4294967296) ≤ tot * 2 ^ (32 - v.shift) - v.freq.toInt ∧
      tot * 2 ^ (32 - v.shift) - v.freq.toInt ≤ 1000000 * 4294967296 := by
  obtain ⟨-, hshift⟩ := h.shift
  obtain ⟨hfreqLow, hfreqHigh⟩ := h.freq
  dsimp only [fxOne, maxFreq] at hfreqLow hfreqHigh
  obtain ⟨hrawLow, hrawHigh⟩ := scaledSum_bounds (by omega) hlow hhigh
  rw [wanderOf, rawFreq, fxSub_eq, wrap64_toInt (tot * _) (by omega) (by omega), wrap64_toInt _ (by omega) (by omega)]
  omega

theorem maxwander_le {c : Params} (h : c.Wf) : c.maxwander ≤ 500000 := by
  obtain ⟨-, -, -, -, -, -, -, -, -, -, -, -, -, -, -, -, -, -, -, hmaxwander, -⟩ := h
  exact hmaxwander

theorem wanderBad_iff (c : Params) (wfx : Fx) :
    wanderBad c wfx = true ↔
      (c.maxwander : Int) < wfx.toInt / 4294967296 ∨ wfx.toInt / 4294967296 < -(c.maxwander : Int) := by
  rw [wanderBad, fxGetInt_eq, Bool.or_eq_true, decide_eq_true_iff, decide_eq_true_iff]

/-- The bounded wander in integers (R326). -/
theorem boundedWander_toInt {c : Params} (hc : c.maxwander ≤ 500000) (wfx : Fx) :
    (boundedWander c wfx).toInt =
      if (c.maxwander : Int) < wfx.toInt / 4294967296 then (c.maxwander : Int) * 4294967296
      else if wfx.toInt / 4294967296 < -(c.maxwander : Int) then -((c.maxwander : Int) * 4294967296)
      else wfx.toInt := by
  rw [boundedWander, fxGetInt_eq]
  split_ifs
  · exact fxLoadInt_toInt _ (by omega) (by omega)
  · rw [fxLoadInt_toInt _ (by omega) (by omega), Int.neg_mul]
  · rfl

/-- A limit only brings the wander nearer to 0. -/
theorem boundedWander_bounds {c : Params} (hc : c.maxwander ≤ 500000) {wfx : Fx}
    (hlow : -(1000000 * 4294967296) ≤ wfx.toInt) (hhigh : wfx.toInt ≤ 1000000 * 4294967296) :
    -(1000000 * 4294967296) ≤ (boundedWander c wfx).toInt ∧ (boundedWander c wfx).toInt ≤ 1000000 * 4294967296 := by
  rw [boundedWander_toInt hc]
  split_ifs <;> omega

theorem boundedWanderInt_eq (c : Params) (wfx : Fx) :
    boundedWanderInt c wfx = max (-(c.maxwander : Int)) (min (wfx.toInt / 4294967296) c.maxwander) := by
  rw [boundedWanderInt, fxGetInt_eq, clampInt_eq _ _ _ (by omega)]

/-- PPS_FREQ after an accepted interval: the sum does not wrap before it is limited (R330). -/
theorem PpsInv.integrated_toInt {v : Pps} (h : PpsInv v) {x : Fx} (hlow : -(1000000 * 4294967296) ≤ x.toInt)
    (hhigh : x.toInt ≤ 1000000 * 4294967296) :
    (fxClampMag (fxAdd v.freq x) maxFreq).toInt =
      max (-(500000 * 4294967296)) (min (v.freq.toInt + x.toInt) (500000 * 4294967296)) := by
  obtain ⟨hfreqLow, hfreqHigh⟩ := h.freq
  dsimp only [fxOne, maxFreq] at hfreqLow hfreqHigh
  rw [fxClampMag_toInt _ _ (by decide) (by decide), fxAdd_eq, wrap64_toInt _ (by omega) (by omega)]

/-- The wander in the words of the statements; under the invariant and within the sanity bounds it does not wrap. -/
theorem Inv.ppsWander_toInt {s : State} (h : Inv s) (hlow : -(500000 * 2 ^ s.pps.shift) ≤ s.ppsSum)
    (hhigh : s.ppsSum ≤ 500000 * 2 ^ s.pps.shift) :
    s.ppsWander.toInt = s.ppsSum * 2 ^ (32 - s.pps.shift) - s.pps.freq.toInt ∧
      -(1000000 * 4294967296) ≤ s.ppsWander.toInt ∧ s.ppsWander.toInt ≤ 1000000 * 4294967296 := by
  obtain ⟨hshift, -, hfreq, -⟩ := restarted_kept s
  obtain ⟨hwander, hbounds⟩ := (ppsInv_hppsRestarted h).wander_toInt (hshift ▸ hlow) (hshift ▸ hhigh)
  rw [hshift, hfreq] at hwander hbounds
  exact ⟨hwander, hwander ▸ hbounds⟩

/-- PPS_INTCNT before the hysteresis (R326). -/
def State.ppsVote (s : State) : Int :=
  if wanderBad s.cfg s.ppsWander then s.pps.intcnt - 1 else s.pps.intcnt + 1

theorem accepted_clock_status (s : State) :
    s.hppsAccepted.clock.status =
      if wanderBad s.cfg s.ppsWander then statusPut s.hppsFiltered.clock.status .ppswander true
      else s.hppsFiltered.clock.status := rfl

theorem accepted_flag (s : State) : s.hppsAccepted.clock.has .ppsjitter = s.hppsFiltered.clock.has .ppsjitter := by
  rw [Clock.has, accepted_clock_status]
  split_ifs
  · exact statusHas_put_ne _ _ _ _ (by decide)
  · rfl

theorem accepted_status (s : State) :
    s.hppsAccepted.clock.status &&& 0xFDFF#16 =
      (s.clock.status &&& 0xF1FF#16) ||| if wanderBad s.cfg s.ppsWander then 0x0500#16 else 0x0100#16 := by
  rw [accepted_clock_status]
  split_ifs
  · exact filtered_status_or s 0x0400#16
  · exact filtered_status s

/-- FREQ takes PPS_FREQ under PPSFREQ (R330). -/
theorem accepted_clock_freq (s : State) :
    s.hppsAccepted.clock.freq =
      if s.clock.status.getLsbD 1 then s.hppsAccepted.pps.freq else s.clock.freq := by
  have hflag : s.hppsFiltered.clock.has .ppsfreq = s.clock.status.getLsbD 1 := filtered_has s .ppsfreq (by decide)
  rw [← hflag]
  rfl

/-- PPS_FREQ takes the bounded wander (R330). -/
theorem accepted_pps_freq {s : State} (h : Inv s) (hlow : -(1000000 * 4294967296) ≤ s.ppsWander.toInt)
    (hhigh : s.ppsWander.toInt ≤ 1000000 * 4294967296) :
    s.hppsAccepted.pps.freq.toInt =
      max (-(500000 * 4294967296))
        (min (s.pps.freq.toInt + (boundedWander s.cfg s.ppsWander).toInt) (500000 * 4294967296)) := by
  obtain ⟨hboundedLow, hboundedHigh⟩ := boundedWander_bounds (maxwander_le h.cfg) hlow hhigh
  obtain ⟨-, -, hfreq, -⟩ := restarted_kept s
  rw [← hfreq]
  exact (ppsInv_hppsRestarted h).integrated_toInt hboundedLow hboundedHigh

/-- The stability average (R329). -/
theorem accepted_stabil (s : State) {metric : Int}
    (hmetric : s.pps.stabil.toInt +
      (((boundedWanderInt s.cfg s.ppsWander).natAbs : Int) * s.cfg.scalePpm - s.pps.stabil.toInt) / 2 ^ s.cfg.ppsAvg =
        metric)
    (hfits : FitsS32 metric) : s.hppsAccepted.pps.stabil.toInt = metric := by
  obtain ⟨-, -, -, hstabil, -⟩ := restarted_kept s
  subst hmetric
  rw [← hstabil] at hfits ⊢
  exact fitS32_toInt _ _ hfits

theorem ite_else_not_and {α : Type} (p q : Prop) [Decidable p] [Decidable q] (x y z : α) :
    (if p then x else if ¬p ∧ q then y else z) = if p then x else if q then y else z := by
  by_cases hp : p <;> simp [hp]

/-- The counters and the shift of an accepted interval, by the vote (R326, R327). -/
theorem accepted_pps (s : State) :
    s.hppsAccepted.pps =
      { s.hppsRestarted.pps with
        stbcnt := if wanderBad s.cfg s.ppsWander then s.pps.stbcnt + 1#32 else s.pps.stbcnt
        intcnt :=
          if 4 ≤ s.ppsVote then (if s.pps.shift < s.pps.shiftmax then 0 else 4)
          else if ¬4 ≤ s.ppsVote ∧ (s.ppsVote ≤ -4 ∨ s.pps.shiftmax < s.pps.shift) then
            (if 2 < s.pps.shift then 0 else -4)
          else s.ppsVote
        shift :=
          if 4 ≤ s.ppsVote ∧ s.pps.shift < s.pps.shiftmax then s.pps.shift + 1
          else if (¬4 ≤ s.ppsVote ∧ (s.ppsVote ≤ -4 ∨ s.pps.shiftmax < s.pps.shift)) ∧ 2 < s.pps.shift then
            s.pps.shift - 1
          else s.pps.shift
        freq := s.hppsAccepted.pps.freq
        stabil := s.hppsAccepted.pps.stabil } := by
  obtain ⟨hshift, hshiftmax, -, -, hintcnt, -, hstbcnt⟩ := restarted_kept s
  have hadapt := adaptShift_eq { s.hppsRestarted.pps with intcnt := s.ppsVote }
  have hvote : (if wanderBad s.cfg s.ppsWander then s.hppsRestarted.pps.intcnt - 1
      else s.hppsRestarted.pps.intcnt + 1) = s.ppsVote := by
    rw [hintcnt]
    rfl
  rw [ite_else_not_and, ← hshift, ← hshiftmax, ← hstbcnt]
  have hpps : s.hppsAccepted.pps =
      { adaptShift { s.hppsRestarted.pps with intcnt := s.ppsVote } with
        stbcnt := if wanderBad s.cfg s.ppsWander then s.hppsRestarted.pps.stbcnt + 1#32 else s.hppsRestarted.pps.stbcnt
        freq := s.hppsAccepted.pps.freq
        stabil := s.hppsAccepted.pps.stabil } := by
    rw [← hvote]
    rfl
  rw [hadapt] at hpps
  exact hpps

/-- The end of an interval leaves the phase filter alone (R317, R319). -/
theorem accepted_jitter_kept (s : State) :
    s.hppsAccepted.pps.jitcnt = s.hppsFiltered.pps.jitcnt ∧ s.hppsAccepted.pps.jitter = s.hppsFiltered.pps.jitter :=
  ⟨(congrArg Pps.jitcnt (accepted_pps s) :), (congrArg Pps.jitter (accepted_pps s) :)⟩

/-- Settles O51: the restarted filter with the wander integrated, each register by its lemma in the integers of the
statement. -/
theorem hppsAcceptsInterval : Obligations.HppsAcceptsInterval := by
  intro s hs hinv hnew hpass helapsed hlow hhigh wfx w lim bad wfx' w' n up down metric
  obtain ⟨-, hshift⟩ := hinv.pps.shift
  obtain ⟨hwander, hwanderLow, hwanderHigh⟩ := hinv.ppsWander_toInt hlow hhigh
  have hbad : wanderBad s.cfg s.ppsWander = true ↔ bad := by
    rw [wanderBad_iff, hwander]
  have hbounded : (boundedWander s.cfg s.ppsWander).toInt = wfx' := by
    rw [boundedWander_toInt (maxwander_le hinv.cfg), hwander]
  have hwhole : boundedWanderInt s.cfg s.ppsWander = w' := by
    rw [boundedWanderInt_eq, hwander]
  have hvote : s.ppsVote = n := if_congr hbad rfl rfl
  have hfilter :=
    hppsFilter_accepted hnew hpass helapsed (fitsS64_of_bounds hshift hlow hhigh) hlow hhigh
  obtain ⟨hjitcnt, hjitter⟩ := accepted_jitter_kept s
  obtain ⟨t, hexec, hframe, hfiltered, hclock, hpps⟩ :=
    exec_hpps_of_filtered hs hfilter hjitcnt hjitter (accepted_flag s) rfl
  refine ⟨t, hexec, hframe, hfiltered, ?_⟩
  rw [hclock, hpps]
  refine ⟨rfl, ?_, accepted_clock_freq s, ?_, ?_, ?_⟩
  · rw [accepted_status, if_congr hbad rfl rfl]
  · rw [accepted_pps_freq hinv hwanderLow hwanderHigh, hbounded]
  · have haccepted := accepted_pps s
    rw [if_congr hbad rfl rfl, hvote, restarted_pps] at haccepted
    rw [hjitcnt, hjitter]
    exact haccepted
  · exact accepted_stabil s (by rw [hwhole])

end Sys2Proof.Machine
end

section
/-! PROOFS. The interpolator (45_interpolator.md): CALIB by the sample it takes, what NOW returns and registers, and the
order of two timestamps. -/

namespace Sys2Proof.Machine

/-! ### The ratio and the sample -/

/-- A sample whose elapsed nanoseconds and counts are positive, the former within 63 bits (R354). -/
def GoodSample (c : Params) (k : Clock) (u : Interp) (now : BitVec 64) : Prop :=
  0 < calibNum k u ∧ calibNum k u ≤ 9223372036854775807 ∧ 0 < cycDelta c now u.scnt

theorem calibrate_first {u : Interp} (h : u.initd = false) (c : Params) (k : Clock) (now : BitVec 64) :
    calibrate c k u now =
      { scnt := now
        stsec := k.sec
        stnsec := k.nsec
        num := 1000000000#64
        den := BitVec.ofNat 64 c.cpuHz
        initd := true } := by
  simp only [calibrate, calibRatio, h, Bool.not_false, if_true]
  rfl

theorem calibRatio_of_good {c : Params} {k : Clock} {u : Interp} {now : BitVec 64} (h : u.initd = true)
    (hgood : GoodSample c k u now) :
    calibRatio c k u now = { u with num := wrap64 (calibNum k u), den := wrap64 (cycDelta c now u.scnt) } :=
  (calibRatio_later c k u now h).trans (if_pos hgood)

theorem calibRatio_of_bad {c : Params} {k : Clock} {u : Interp} {now : BitVec 64} (h : u.initd = true)
    (hbad : ¬GoodSample c k u now) : calibRatio c k u now = u :=
  (calibRatio_later c k u now h).trans (if_neg hbad)

theorem calibRatio_initd (c : Params) (k : Clock) (u : Interp) (now : BitVec 64) :
    (calibRatio c k u now).initd = true := by
  cases h : u.initd with
  | false => exact congrArg Interp.initd (calibrate_first h c k now)
  | true =>
    rw [calibRatio_later c k u now h]
    split_ifs <;> exact h

/-- A good sample is stored exactly: both of its numbers fit their registers (R354, 10_state.md R72). -/
theorem calibRatio_values {c : Params} {k : Clock} {u : Interp} {now : BitVec 64} (hcw : c.cw ≤ 64)
    (h : u.initd = true) (hgood : GoodSample c k u now) :
    (calibRatio c k u now).num.toInt = calibNum k u ∧
      ((calibRatio c k u now).den.toNat : Int) = cycDelta c now u.scnt := by
  rw [calibRatio_of_good h hgood]
  obtain ⟨hpos, hfits, -⟩ := hgood
  exact ⟨wrap64_toInt _ (by omega) (by omega), wrap64_cycDelta_toNat c now u.scnt hcw⟩

/-- The difference of counts in the words of the statements (R354, R358). -/
theorem cycDelta_sampleCyc (c : Params) (x y : BitVec 64) (h : c.cw ≤ 64) :
    cycDelta c (sampleCyc c x) y = ((x.toNat : Int) - y.toNat) % 2 ^ c.cw := by
  rw [cycDelta_sample c x y h, Nat.cast_pow, Nat.cast_ofNat]

/-! ### CALIB -/

/-- The interpolation state CALIB leaves on its processor (R351). -/
def State.calibratedInterp (s : State) : Interp :=
  calibrate s.cfg s.clock s.self.interp (sampleCyc s.cfg s.issue.cyc)

/-- What CALIB leaves before its STAT write (R351). -/
def State.calibrated (s : State) : State :=
  s.modifyInterp fun u => calibrate s.cfg s.clock u (sampleCyc s.cfg s.issue.cyc)

theorem exec_calib (s : State) : exec .calib s = .next s.calibrated.complete := rfl

theorem portsKept_modifyInterp (s : State) (f : Interp → Interp) : PortsKept s (s.modifyInterp f) [] := by
  intro addr _
  simp only [portRead, State.port_modifyInterp]

/-- CALIB changes the interpolation state of its own processor and STAT, whatever the sample (R351). -/
theorem exec_calib_result {s : State} (hs : Issued s) :
    ∃ t, exec .calib s = .next t ∧ StatIs t flagsNone ∧ SameDrive s t ∧ PortsKept s t [0x01] ∧ LastKept s t ∧
      t.t = s.t ∧ t.clock = s.clock ∧ t.pps = s.pps ∧ t.mcnt = s.mcnt ∧ t.draws = s.draws ∧
      (∀ p, p ≠ s.issue.bank → t.cpu p = s.cpu p) ∧ t.self.interp = s.calibratedInterp := by
  have hbanks : s.calibrated.complete.cpus.length = s.cpus.length :=
    (s.calibrated.drive_finish flagsNone).banks.trans (s.length_modifyCpu ..)
  have hports : PortsKept s s.calibrated.complete [0x01] :=
    (portsKept_modifyInterp s _).trans rfl (s.calibrated.ports_finish flagsNone)
  have hothers (p : Nat) (hp : p ≠ s.issue.bank) : s.calibrated.complete.cpu p = s.cpu p :=
    (s.calibrated.cpu_modifyCpu_ne _ p _ hp).trans (s.cpu_modifyCpu_ne _ p _ hp)
  have hinterp : s.calibrated.complete.self.interp = s.calibratedInterp :=
    (s.calibrated.interps_finish flagsNone _).trans (s.interp_modifyInterp _ hs)
  exact ⟨_, exec_calib s, State.stat_finish _ _ (s.issued_modifyInterp _ hs), ⟨rfl, rfl, rfl, rfl, hbanks⟩, hports,
    ⟨rfl, rfl⟩, rfl, rfl, rfl, rfl, rfl, hothers, hinterp⟩

/-- Settles O52: the frame of CALIB with the seeded ratio. -/
theorem calibSeedsRatio : Obligations.CalibSeedsRatio := by
  intro s hs _ hinit
  have hseed : s.calibratedInterp = _ := calibrate_first hinit _ _ _
  have hresult := exec_calib_result hs
  rwa [hseed] at hresult

/-- Settles O53: the frame of CALIB with the ratio by the two kinds of sample. -/
theorem calibUpdatesRatio : Obligations.CalibUpdatesRatio := by
  intro s hs hcfg hinit u num den good
  obtain ⟨-, -, hcw, -⟩ := hcfg
  have hden : cycDelta s.cfg (sampleCyc s.cfg s.issue.cyc) u.scnt = den := cycDelta_sampleCyc _ _ _ hcw
  have hgood : GoodSample s.cfg s.clock u (sampleCyc s.cfg s.issue.cyc) ↔ good := by
    rw [GoodSample, hden]
    rfl
  obtain ⟨t, hexec, hstat, hdrive, hports, hlast, hregs, hclock, hpps, hmcnt, hdraws, hothers, hinterp⟩ :=
    exec_calib_result hs
  refine ⟨t, hexec, hstat, hdrive, hports, hlast, hregs, hclock, hpps, hmcnt, hdraws, hothers, ?_⟩
  rw [hinterp]
  refine ⟨sampleCyc_toNat _ _ hcw, rfl, rfl, calibRatio_initd _ _ _ _, fun h => ?_, fun h => ?_⟩
  · rw [← hden]
    exact calibRatio_values hcw hinit (hgood.2 h)
  · have hkept := calibRatio_of_bad hinit (mt hgood.1 h)
    have hnum := congrArg Interp.num hkept
    have hden := congrArg Interp.den hkept
    exact ⟨hnum, hden⟩

/-! ### NOW -/

/-- The nanoseconds NOW returns (R356, R360, R361). -/
def State.timestamp (s : State) : Int := nowOut (nowCandidate s) (nowLast s)

/-- LAST takes what NOW returns, in every case (R356, R360). -/
def State.stamped (s : State) : State :=
  { s with lastSec := wrap64 (s.timestamp / nanosecond), lastNsec := wrap32 (s.timestamp % nanosecond) }

/-- The results of NOW in its bank: LAST as three words (R356). -/
def putTimestamp (s : State) (q : Port) : Port :=
  { q with res0 := loWord s.lastSec, res1 := hiWord s.lastSec, res2 := s.lastNsec }

theorem exec_now (s : State) :
    exec .now s = .next ((s.stamped.modifyPort (putTimestamp s.stamped)).finish (cmdFlags .now s)) := rfl

/-- The candidate in integers, over the whole present count (R356 to R359). -/
theorem nowCandidate_eq (s : State) (h : s.cfg.cw ≤ 64) :
    nowCandidate s = s.clock.sec.toInt * 1000000000 + s.clock.nsec.toInt +
      if s.self.interp.initd then
        min (((s.issue.cyc.toNat : Int) - s.mcnt.toNat) % 2 ^ s.cfg.cw * s.self.interp.num.toInt /
          (s.self.interp.den.toNat : Int)) (1000000000 / s.cfg.hz : Nat)
      else 0 := by
  rw [nowCandidate, nowOffset, cycDelta_sampleCyc _ _ _ h]
  rfl

/-- RES0, RES1 and RES2 are the words 0x06 to 0x08 (20_memory.md R92). -/
theorem portsKept_putTimestamp (s u : State) : PortsKept s (s.modifyPort (putTimestamp u)) [0x06, 0x07, 0x08] := by
  refine portsKept_of_read s _ _ fun r hr q => ?_
  cases r with
  | res0 | res1 | res2 => exact (absurd_of_listed (by decide) hr).elim
  | _ => rfl

/-- Settles O54: LAST is stamped, then the bank and STAT are written as by a command that writes results only. -/
theorem nowReturnsTimestamp : Obligations.NowReturnsTimestamp := by
  intro s hs hcfg u delta off cand last held out
  obtain ⟨-, -, hcw, -⟩ := hcfg
  have hcand : nowCandidate s = cand := nowCandidate_eq s hcw
  have hout : s.timestamp = out := by
    rw [State.timestamp, hcand]
    exact nowOut_eq cand last
  have hheld : cmdFlags .now s = { flagsNone with mono := decide held } := by
    rw [cmdFlags, nowHeld, ← Bool.decide_and, hcand]
    rfl
  have hframe := portOnly_finish s.stamped _ (cmdFlags .now s) _ (portsKept_putTimestamp s.stamped s.stamped)
  have hport := port_modifyPort_finish s.stamped (putTimestamp s.stamped) (cmdFlags .now s) hs
  obtain ⟨⟨⟨hcfg, hissue, hpending, hreads, hbanks⟩, hports, hinterps, -⟩, hregs, hclock, hpps, hmcnt, hdraws⟩ :=
    hframe.mono (y := [0x01, 0x06, 0x07, 0x08]) (by decide)
  refine ⟨rfl, _, exec_now s, ?_, ?_, ?_, ?_, ?_, ?_, hregs, hclock, hpps, hmcnt, hdraws,
    ⟨hcfg, hissue, hpending, hreads, hbanks⟩, hinterps, hports⟩
  · rw [← hout]
    rfl
  · rw [← hout]
    exact nowNsec_toInt s.timestamp
  · rw [hport]
    exact loWord_toNat s.stamped.lastSec
  · rw [hport]
    exact hiWord_toNat s.stamped.lastSec
  · rw [hport]
    rfl
  · rw [← hheld]
    exact State.stat_finish _ _ (State.issued_modifyPort s.stamped _ hs)

/-! ### The order of two timestamps -/

/-- What is returned is later than the last timestamp, or the candidate of a backward jump (R360, R361). -/
theorem State.timestamp_cases (s : State) :
    nowLast s < s.timestamp ∨ 1000000000 < nowLast s - s.timestamp ∧ s.timestamp = nowCandidate s := by
  rw [State.timestamp, nowOut_eq]
  split_ifs <;> omega

/-- The candidate lies from the tick-boundary clock to one tick length above it (R359). -/
theorem nowCandidate_bounds (s : State) (hnum : s.self.interp.initd = true → 0 ≤ s.self.interp.num.toInt) :
    totalNs s.clock.sec s.clock.nsec ≤ nowCandidate s ∧
      nowCandidate s ≤ totalNs s.clock.sec s.clock.nsec + s.cfg.tickNs := by
  have hoff := nowOffset_bounds s.cfg s.self.interp s.mcnt (sampleCyc s.cfg s.issue.cyc) hnum
  rw [nowCandidate]
  omega

theorem tickNs_le (c : Params) : c.tickNs ≤ 1000000000 := Nat.div_le_self _ _

/-- A pair whose seconds are away from the ends of the 64-bit range, in nanoseconds; NSEC may be any value (R363). -/
theorem totalNs_bounds {sec : BitVec 64} (nsec : BitVec 32) (hlow : -4611686018427387904 ≤ sec.toInt)
    (hhigh : sec.toInt < 4611686018427387904) :
    -4611686018427387907 * 1000000000 ≤ totalNs sec nsec ∧ totalNs sec nsec < 4611686018427387907 * 1000000000 := by
  have hnsec := toInt32_bounds nsec
  rw [totalNs, nanosecond]
  omega

/-- Settles O55: what is returned fits LAST, so LAST reads back as it. -/
theorem nowIsStrictlyMonotonic : Obligations.NowIsStrictlyMonotonic := by
  intro s _ _ hsecLow hsecHigh hlastLow hlastHigh hnum
  obtain ⟨hcandLow, hcandHigh⟩ := nowCandidate_bounds s fun h => Int.le_of_lt (hnum h)
  have hclock := totalNs_bounds s.clock.nsec hsecLow hsecHigh
  have hlast : _ ≤ nowLast s ∧ nowLast s < _ := totalNs_bounds s.lastNsec hlastLow hlastHigh
  have htick := tickNs_le s.cfg
  have hout : s.timestamp = nowLast s + 1 ∨ s.timestamp = nowCandidate s := ite_eq_or_eq _ _ _
  have hsplit : totalNs s.stamped.lastSec s.stamped.lastNsec = s.timestamp :=
    totalNs_split s.timestamp (by omega) (by omega)
  have horder := s.timestamp_cases
  rw [← hsplit] at horder
  rw [Params.tickNs, Int.natCast_ediv] at hcandHigh
  exact ⟨_, exec_now s, horder, hcandLow, hcandHigh⟩

end Sys2Proof.Machine
end

section
/-! PROOFS. The reset state (70_reset_and_hazards.md R431), as the accessors of the T registers, of the processors and of
the words of a bank see it. -/

namespace Sys2Proof.Machine

/-- A register field of 8 to 15 names no register and reads as 0 too. -/
@[simp] theorem State.readT_resetWith (c : Params) (r : BitVec 4) : (State.resetWith c).readT r = 0#64 := by
  rw [State.readT, State.resetWith, Vector.getElem?_replicate]
  split <;> rfl

theorem State.cpu_resetWith (c : Params) {p : Nat} (h : p < c.ncpu) : (State.resetWith c).cpu p = Cpu.reset := by
  have hbank : (List.replicate c.ncpu Cpu.reset)[p]? = some Cpu.reset := List.getElem?_replicate_of_lt h
  rw [State.cpu, State.resetWith, hbank, Option.getD_some]

/-- STAT resets to CLASS = ERROR, every other word to 0; a 64-bit field of the RSP block is 0 in both its words. -/
theorem Port.read_reset (r : PortReg) : Port.reset.read r = if r = .stat then 0x00000005#32 else 0#32 := by
  cases r <;> rfl

/-- Settles O58: the shared state has the values of the table by definition; the T registers and the banks have them through
their accessors. -/
theorem resetValues : Obligations.ResetValues := by
  intro c
  refine ⟨rfl, rfl, rfl, rfl, rfl, State.readT_resetWith c, List.length_replicate, ?_⟩
  intro p hp
  rw [State.cpu_resetWith c hp]
  exact ⟨rfl, Port.read_reset⟩

end Sys2Proof.Machine
end

section
/-! PROOFS. The words the spec writes out (40_fixedpoint.md, 30_encoding.md R132, 95_test_vectors.md 2.3): a legal word is
recognised by encoding its command, an illegal one by the rule of R127 it breaks. -/

namespace Sys2Proof

/-- A word decodes to a command exactly when it is the encoding of that command and the command is legal. -/
theorem decode_eq_command_iff {w : Word} {i : Instr} :
    decode w = .command i ↔ i.WellFormed = true ∧ encode i = w := by
  constructor
  · exact encodeOfDecode w i
  · rintro ⟨hwf, rfl⟩
    exact decodeOfEncode i hwf

theorem decode_encode_of_not_wellFormed {i : Instr} (h : i.WellFormed = false) :
    decode (encode i) = .illegal .registerOutOfRange := by
  rw [decode_encode, h]
  rfl

/-- Settles O4: each of the eleven legal words is the encoding of its command. Of the illegal ones the first has an
operation code of no row, the second is the encoding of FXADD with the source register 8, and the third is TICK but for
its field RD, which format F-0 does not use. -/
theorem specWordsDecode : Obligations.SpecWordsDecode := by
  have legal {w : Word} {i : Instr} (hwf : i.WellFormed = true) (henc : encode i = w) : decode w = .command i :=
    decode_eq_command_iff.2 ⟨hwf, henc⟩
  have unassigned : decode 0x00000000#32 = .illegal .unassignedOpcode := rfl
  have outOfRange : decode 0x01080000#32 = .illegal .registerOutOfRange :=
    decode_encode_of_not_wellFormed (i := .fxadd 0#4 8#4) rfl
  have unusedSet : decode 0x20100000#32 = .illegal .unusedFieldNotZero := rfl
  exact ⟨legal rfl rfl, legal rfl rfl, legal rfl rfl, legal rfl rfl, legal rfl rfl, legal rfl rfl, legal rfl rfl,
    legal rfl rfl, legal rfl rfl, legal rfl rfl, legal rfl rfl, unassigned, outOfRange, unusedSet⟩

end Sys2Proof
end
